-- ==== Sys2Proof/Word.lean ====
section
/-! DEFINITION. The plain data the block handles: bytes, line levels, the four orientations, the outcome codes,
and the form in which the host hands over an operation. -/

namespace Sys2Proof

/-- A byte, bit 0 the least significant (00_scope R9). -/
abbrev Byte := BitVec 8

/-- The level of a line: LOW or HIGH (30_encoding R63). On the command/data-select line LOW means command and HIGH
means data (00_scope R16, 40_protocol R85). -/
inductive Level where
  | low
  | high
  deriving DecidableEq, Repr, Inhabited

/-- The four rotations, value `r` standing for `90 * r` degrees (10_state R19). -/
inductive Orient where
  | deg0
  | deg90
  | deg180
  | deg270
  deriving DecidableEq, Repr, Inhabited

/-- The fault codes of 60_exceptions R131. -/
inductive FaultCode where
  /-- a bus operation before any successful `begin` (R86, R121) -/
  | noTransport
  /-- `begin` without a transport once the block has begun (R112) -/
  | rebeginNoTransport
  /-- `begin` with aliased pins (R110) -/
  | badPinConfig
  /-- `setOrientation` above 3, `setResistor` above 7 (R96, R123) -/
  | badArgument
  /-- a flush of a non-empty page range with a column outside the buffer (R105) -/
  | flushColumnRange
  /-- a framebuffer index outside the buffer; no rule computes one (R37) -/
  | badIndex
  /-- a width or height outside the legal range: no block is built (R7) -/
  | badGeometry
  deriving DecidableEq, Repr

/-- The configuration errors a `begin` reports (60_exceptions R129). -/
inductive DiagCode where
  /-- no transport while the controller state is UNINIT (R112) -/
  | cfgNoTransport
  deriving DecidableEq, Repr

/-- One argument of a host call, as 95_test_vectors section 3 writes it: `T`, `none` or a number. -/
inductive Arg where
  /-- `T`: a transport is injected (30_encoding R80) -/
  | transport
  /-- `none`: no transport, or no reset pin (30_encoding R61) -/
  | absent
  /-- a number; a Boolean is 0 or 1 -/
  | num (z : Int)
  deriving DecidableEq, Repr

/-- One undecoded entry of the block's input. A host program holds only calls; the other two stand for the
block's internal primitives and for the controller bytes they carry (30_encoding R60; log 2 and 3, DESIGN CHOICE). -/
inductive Item where
  /-- a host operation, `selector(arguments)` (30_encoding R59, R60) -/
  | call (selector : Nat) (args : List Arg)
  /-- an internal primitive: `sendCommand` with CD LOW, `sendData` with CD HIGH (30_encoding R60) -/
  | prim (cd : Level) (b : Byte)
  /-- a byte of the output stream, read as 30_encoding R82 reads it -/
  | byte (cd : Level) (b : Byte)
  deriving DecidableEq, Repr

/-- Why an entry is not an instruction. -/
inductive Reject where
  /-- the selector is none of 0..8 (30_encoding R60) -/
  | noSuchOperation (selector : Nat)
  /-- the arguments have the wrong number or kind for the operation (30_encoding R61, R80) -/
  | badArguments (selector : Nat)
  /-- a command byte that fits no row of 30_encoding R70 -/
  | noSuchCommand (b : Byte)
  /-- an electronic-volume value byte with bit 7 or 6 set (30_encoding R70, R72) -/
  | badValueByte (b : Byte)
  deriving DecidableEq, Repr

end Sys2Proof
end

