-- ==== Sys2Proof/Config.lean ====
section
/-! DEFINITION. What is fixed for the life of a block: its geometry, the parameters of 00_scope R8 (the command bytes
among them), the delays, and the free values the spec leaves open. -/

namespace Sys2Proof

/-- The legal geometries (00_scope R7). -/
abbrev Config.LegalGeometry (width height : Nat) : Prop :=
  1 ≤ width ∧ width ≤ 256 ∧ 8 ≤ height ∧ height % 8 = 0 ∧ height / 8 ≤ 16

/-- The physical size of the framebuffer, fixed at construction; an illegal one cannot be built (00_scope R7). -/
structure Geometry where
  width : Nat
  height : Nat
  legal : Config.LegalGeometry width height
  deriving DecidableEq, Repr

/-- The `CMD_*` parameters: the command bytes with a zero field (00_scope R8, 30_encoding R70). `CMD_EV` is not among
them: its value is the source's own (93 I4). The places of the fields within a byte are fixed (log 12). -/
structure CommandBytes where
  /-- `CMD_COL_LSB` -/
  colLsb : Byte
  /-- `CMD_COL_MSB` -/
  colMsb : Byte
  /-- `CMD_RESISTOR` -/
  resistor : Byte
  /-- `CMD_POWER` -/
  power : Byte
  /-- `CMD_SCROLL` -/
  scroll : Byte
  /-- `CMD_SEG` -/
  seg : Byte
  /-- `CMD_BIAS` -/
  bias : Byte
  /-- `CMD_ALLPIX` -/
  allpix : Byte
  /-- `CMD_INVERSE` -/
  inverse : Byte
  /-- `CMD_DISPLAY` -/
  display : Byte
  /-- `CMD_PAGE` -/
  page : Byte
  /-- `CMD_COM` -/
  com : Byte
  /-- `CMD_SYSRESET` -/
  sysreset : Byte
  /-- `CMD_APC` -/
  apc : Byte
  deriving DecidableEq, Repr

/-- The parameters a model takes as an argument (00_scope R8). The types hold the ranges the spec gives; the receiver's
display RAM is given by what it has beyond the least it must have (`PANEL_COLS >= W + HOFFSET`,
`PANEL_PAGES >= PAGES`). -/
structure Params where
  geom : Geometry
  /-- `CMD_*` (decision D6) -/
  cmd : CommandBytes
  /-- `SPI_MODE`, 0..3 (decision D11) -/
  spiMode : Fin 4
  /-- the low bit of `BIAS_CMD`, `0xA2` or `0xA3` (decision D9) -/
  bias : Bool
  /-- `INIT_RESISTOR`, 0..7 (decision D9) -/
  initResistor : BitVec 3
  /-- `INIT_CONTRAST`, 0..63 (decision D9) -/
  initContrast : BitVec 6
  /-- `APC_VALUE`, 0..255 (decision D9) -/
  apcValue : Byte
  /-- `COOLDOWN2`, 0..14 (decision D10) -/
  cooldown2 : Fin 15
  /-- `PANEL_COLS - (W + HOFFSET)` (decision D26) -/
  extraCols : Nat
  /-- `PANEL_PAGES - PAGES` (decision D26) -/
  extraPages : Nat
  deriving DecidableEq, Repr

namespace Config

/-- `HOFFSET`: "always computed as 0 in both mirror branches" (10_state R24, 00_scope R8). -/
def hoffset : Int := 0

/-! The delays in milliseconds (00_scope R8, decision D32). -/

def tRst : Nat := 1
def tCool : Nat := 10
def tOff : Nat := 1

/-- `CMD_EV`: the one command byte the source itself gives (30_encoding R70, 93 I4). -/
def cmdEv : Byte := 0x81

/-- The default values of the `CMD_*` parameters (30_encoding R70; PRESUMED by the spec itself, 93 G3; log 12). -/
def commands : CommandBytes :=
  { colLsb := 0x00, colMsb := 0x10, resistor := 0x20, power := 0x28, scroll := 0x40, seg := 0xA0, bias := 0xA2,
    allpix := 0xA4, inverse := 0xA6, display := 0xAE, page := 0xB0, com := 0xC0, sysreset := 0xE2, apc := 0xFA }

/-! Free values: no proof can see what they are. -/

/-- The byte at an address after the draw of that number: the framebuffer at construction (10_state R18) and the
receiver's display RAM (20_memory R48, R52 to R55). Log 4, 10. -/
opaque freeByte : Nat → Nat → Byte
/-- The receiver's column pointer after the draw of that number (20_memory R48, R52 to R55). Log 10. -/
opaque freeCol : Nat → Nat
/-- The receiver's page pointer after the draw of that number (20_memory R48, R54, R55). Log 10. -/
opaque freePage : Nat → Nat
/-- The level of a pin that no event has driven yet (10_state R29). Log 9. -/
opaque freeLevel : Nat → Level
/-- The enabled flag at construction (10_state R20, decision D13). Log 4. -/
opaque enabled0 : Bool
/-- The deferred-flush counter at construction (10_state R21, decision D13). Log 4. -/
opaque dfc0 : Nat
/-- `ORIENT0`, the orientation at construction (10_state R19, decision D13). Log 4. -/
opaque orient0 : Orient

/-! The OPEN parameters (00_scope R8; log 5). -/

opaque spiMode : Fin 4
opaque bias : Bool
opaque initResistor : BitVec 3
opaque initContrast : BitVec 6
opaque apcValue : Byte
opaque cooldown2 : Fin 15
opaque extraCols : Nat
opaque extraPages : Nat

/-- The instance the spec describes: 102 columns, 64 rows (00_scope R7, decision D1). -/
def geometry : Geometry := ⟨102, 64, by decide⟩

/-- The parameters of the block that `State.reset` constructs: the described instance with the default command bytes,
every OPEN one free. -/
def params : Params :=
  { geom := geometry, cmd := commands, spiMode := spiMode, bias := bias, initResistor := initResistor,
    initContrast := initContrast, apcValue := apcValue, cooldown2 := cooldown2,
    extraCols := extraCols, extraPages := extraPages }

end Config

/-- `W`. -/
def Params.width (p : Params) : Nat := p.geom.width
/-- `H`. -/
def Params.height (p : Params) : Nat := p.geom.height
/-- `PAGES = H / 8` (00_scope R7). -/
def Params.pages (p : Params) : Nat := p.geom.height / 8
/-- `W * PAGES`, the number of framebuffer bytes (20_memory R37). -/
def Params.size (p : Params) : Nat := p.width * p.pages
/-- `PANEL_COLS`, at least `W + HOFFSET` (00_scope R8). -/
def Params.panelCols (p : Params) : Nat := p.width + Config.hoffset.toNat + p.extraCols
/-- `PANEL_PAGES`, at least `PAGES` (00_scope R8). -/
def Params.panelPages (p : Params) : Nat := p.pages + p.extraPages

end Sys2Proof
end

