-- ==== Sys2Proof/Syntax.lean ====
section
/-! DEFINITION. The instructions: one constructor for each row of spec/opcode_table.json. -/

namespace Sys2Proof

/-- The host operations (30_encoding R60), the two internal primitives (40_protocol R83, R84), the controller command
bytes and the data bytes (30_encoding R70, R69, R77). The coordinates are the 16-bit patterns of signed numbers
(R61); the pins, the clock, the resistor value and the orientation number are natural numbers (R61). -/
inductive Instr where
  /-- `begin(transport, clock, csPin, cdPin, rstPin, xFlip, yFlip)`, 43_controller R110 -/
  | beginOp (transport : Bool) (clock cs cd : Nat) (rst : Option Nat) (xflip yflip : Bool)
  /-- `clear()`, 41_framebuffer R97 -/
  | clear
  /-- `setPixel(x, y, color)`, 41_framebuffer R94 -/
  | setPixel (x y : BitVec 16) (color : Bool)
  /-- `setEnabled(on)`, 43_controller R120, R121 -/
  | setEnabled (on : Bool)
  /-- `setContrast(value)`, 43_controller R122 -/
  | setContrast (value : Byte)
  /-- `setResistor(value)`, 43_controller R123 -/
  | setResistor (value : Nat)
  /-- `setInverted(on)`, 43_controller R124 -/
  | setInverted (on : Bool)
  /-- `flush(x0, y0, x1, y1)`, 42_flush R102 -/
  | flush (x0 y0 x1 y1 : BitVec 16)
  /-- `setOrientation(r)`, 41_framebuffer R96 -/
  | setOrientation (r : Nat)
  /-- `sendCommand(b)`, 40_protocol R83 -/
  | sendCommand (b : Byte)
  /-- `sendData(b)`, 40_protocol R84 -/
  | sendData (b : Byte)
  /-- set column address, low nibble: `0000llll`, 30_encoding R70, R71 -/
  | cmdColLsb (l : BitVec 4)
  /-- set column address, high nibble: `0001hhhh`, 30_encoding R70, R71 -/
  | cmdColMsb (h : BitVec 4)
  /-- resistor ratio: `00100rrr`, 30_encoding R70, R74 -/
  | cmdResistor (r : BitVec 3)
  /-- power control: `00101ppp`, 30_encoding R70 -/
  | cmdPower (p : BitVec 3)
  /-- scroll line: `01ssssss`, 30_encoding R70 -/
  | cmdScroll (s : BitVec 6)
  /-- electronic volume, first byte: `10000001`, 30_encoding R69, R70 -/
  | cmdEv
  /-- SEG direction: `1010000m`, 30_encoding R75 -/
  | cmdSeg (m : Bool)
  /-- bias ratio: `1010001b`, 30_encoding R70 -/
  | cmdBias (b : Bool)
  /-- all-pixel-off: `10100100`, 30_encoding R70 -/
  | cmdAllpix
  /-- inverse: `1010011i`, 30_encoding R76 -/
  | cmdInverse (i : Bool)
  /-- display: `1010111d`, 30_encoding R76 -/
  | cmdDisplay (d : Bool)
  /-- set page address: `1011pppp`, 30_encoding R73 -/
  | cmdPage (p : BitVec 4)
  /-- COM direction: `1100m000`, 30_encoding R75 -/
  | cmdCom (m : Bool)
  /-- system reset: `11100010`, 30_encoding R70 -/
  | cmdSysreset
  /-- advanced program control, first byte: `11111010`, 30_encoding R69, R70 -/
  | cmdApc
  /-- the value byte after electronic volume: `00vvvvvv`, 30_encoding R72 -/
  | evValue (v : BitVec 6)
  /-- the value byte after advanced program control: `aaaaaaaa`, 30_encoding R69 -/
  | apcValue (a : Byte)
  /-- any other data byte: `dddddddd`, 30_encoding R77 -/
  | displayData (d : Byte)
  deriving DecidableEq, Repr

/-- The nine operations a host may call; the rest are internal to the block (30_encoding R60). -/
def Instr.isHostOp : Instr → Bool
  | .beginOp .. | .clear | .setPixel .. | .setEnabled _ | .setContrast _ | .setResistor _ | .setInverted _
  | .flush .. | .setOrientation _ => true
  | .sendCommand _ | .sendData _ | .cmdColLsb _ | .cmdColMsb _ | .cmdResistor _ | .cmdPower _ | .cmdScroll _
  | .cmdEv | .cmdSeg _ | .cmdBias _ | .cmdAllpix | .cmdInverse _ | .cmdDisplay _ | .cmdPage _ | .cmdCom _
  | .cmdSysreset | .cmdApc | .evValue _ | .apcValue _ | .displayData _ => false

/-- The controller command bytes, format C0, C1 or the first byte of C2 (30_encoding R68, R70). -/
def Instr.isCommandByte : Instr → Bool
  | .cmdColLsb _ | .cmdColMsb _ | .cmdResistor _ | .cmdPower _ | .cmdScroll _ | .cmdEv | .cmdSeg _ | .cmdBias _
  | .cmdAllpix | .cmdInverse _ | .cmdDisplay _ | .cmdPage _ | .cmdCom _ | .cmdSysreset | .cmdApc => true
  | .beginOp .. | .clear | .setPixel .. | .setEnabled _ | .setContrast _ | .setResistor _ | .setInverted _
  | .flush .. | .setOrientation _ | .sendCommand _ | .sendData _ | .evValue _ | .apcValue _ | .displayData _ => false

end Sys2Proof
end

