-- ==== Sys2Proof/WellFormed.lean ====
section
/-! DEFINITION. Which instructions the block or its host can produce. The types of the fields hold every other bound
of 30_encoding R61 and R70 (a coordinate has 16 bits, a contrast value 8, a page 4). -/

namespace Sys2Proof

/-- Every host call is well formed: an illegal argument is a call that faults, not an ill-formed one (30_encoding R78).
Of the command bytes, the column "bytes the block sends" of 30_encoding R70 leaves out a scroll line other than 0 and
a power control other than 0 (off) and 7 (on); R79: the block never emits those. -/
def Instr.wf : Instr → Bool
  | .cmdScroll s => s == 0
  | .cmdPower p => p == 0 || p == 7
  | .beginOp .. | .clear | .setPixel .. | .setEnabled _ | .setContrast _ | .setResistor _ | .setInverted _
  | .flush .. | .setOrientation _ | .sendCommand _ | .sendData _ | .cmdColLsb _ | .cmdColMsb _ | .cmdResistor _
  | .cmdEv | .cmdSeg _ | .cmdBias _ | .cmdAllpix | .cmdInverse _ | .cmdDisplay _ | .cmdPage _ | .cmdCom _
  | .cmdSysreset | .cmdApc | .evValue _ | .apcValue _ | .displayData _ => true

end Sys2Proof
end

