-- ==== Sys2Proof/Decode.lean ====
section
/-! DEFINITION. From an entry of the input to the instruction it stands for, and back. Three encodings meet here:
host calls `selector(arguments)` (30_encoding R59 to R61), the internal primitives (R60), and the bytes of the output
stream (R64, R67 to R77, R82). -/

namespace Sys2Proof

/-! ## The bytes of the output stream

`c` stands for the values of the `CMD_*` parameters throughout. -/

/-- A one-bit field. -/
def bit1 (b : Bool) : Byte := if b then 1 else 0

/-- `CMD_COL_LSB | l` (30_encoding R71). -/
def colLsbByte (c : CommandBytes) (l : BitVec 4) : Byte := c.colLsb ||| l.setWidth 8
/-- `CMD_COL_MSB | h` (30_encoding R71). -/
def colMsbByte (c : CommandBytes) (h : BitVec 4) : Byte := c.colMsb ||| h.setWidth 8
/-- `CMD_RESISTOR | r` (30_encoding R74). -/
def resistorByte (c : CommandBytes) (r : BitVec 3) : Byte := c.resistor ||| r.setWidth 8
/-- `CMD_POWER | p` (30_encoding R70). -/
def powerByte (c : CommandBytes) (p : BitVec 3) : Byte := c.power ||| p.setWidth 8
/-- `CMD_SCROLL | s` (30_encoding R70). -/
def scrollByte (c : CommandBytes) (s : BitVec 6) : Byte := c.scroll ||| s.setWidth 8
/-- `CMD_SEG | m` (30_encoding R75). -/
def segByte (c : CommandBytes) (m : Bool) : Byte := c.seg ||| bit1 m
/-- `BIAS_CMD`: by default `0xA2` or `0xA3` (30_encoding R70). -/
def biasByte (c : CommandBytes) (b : Bool) : Byte := c.bias ||| bit1 b
/-- `CMD_INVERSE | i` (30_encoding R76). -/
def inverseByte (c : CommandBytes) (i : Bool) : Byte := c.inverse ||| bit1 i
/-- `CMD_DISPLAY | d` (30_encoding R76). -/
def displayByte (c : CommandBytes) (d : Bool) : Byte := c.display ||| bit1 d
/-- `CMD_PAGE | p` (30_encoding R73). -/
def pageByte (c : CommandBytes) (p : BitVec 4) : Byte := c.page ||| p.setWidth 8
/-- `CMD_COM | (m << 3)` (30_encoding R75). -/
def comByte (c : CommandBytes) (m : Bool) : Byte := c.com ||| (bit1 m <<< 3)
/-- `00vvvvvv` (30_encoding R72). -/
def evValueByte (v : BitVec 6) : Byte := v.setWidth 8

/-- A row of 30_encoding R70: the bits that are fixed, and their values. -/
structure Pattern where
  mask : Byte
  value : Byte
  deriving DecidableEq, Repr

/-- Whether a command byte fits a row. -/
def Pattern.fits (p : Pattern) (b : Byte) : Bool := b &&& p.mask == p.value

/-- Two rows that no byte fits both: they differ in a bit that both fix. -/
def Pattern.apart (p q : Pattern) : Bool := (p.mask &&& q.mask &&& (p.value ^^^ q.value)) != 0

/-! The masks of spec/opcode_table.json, in the order of 30_encoding R70. -/

def CommandBytes.patColLsb (c : CommandBytes) : Pattern := ⟨0xF0, c.colLsb⟩
def CommandBytes.patColMsb (c : CommandBytes) : Pattern := ⟨0xF0, c.colMsb⟩
def CommandBytes.patResistor (c : CommandBytes) : Pattern := ⟨0xF8, c.resistor⟩
def CommandBytes.patPower (c : CommandBytes) : Pattern := ⟨0xF8, c.power⟩
def CommandBytes.patScroll (c : CommandBytes) : Pattern := ⟨0xC0, c.scroll⟩
def patEv : Pattern := ⟨0xFF, Config.cmdEv⟩
def CommandBytes.patSeg (c : CommandBytes) : Pattern := ⟨0xFE, c.seg⟩
def CommandBytes.patBias (c : CommandBytes) : Pattern := ⟨0xFE, c.bias⟩
def CommandBytes.patAllpix (c : CommandBytes) : Pattern := ⟨0xFF, c.allpix⟩
def CommandBytes.patInverse (c : CommandBytes) : Pattern := ⟨0xFE, c.inverse⟩
def CommandBytes.patDisplay (c : CommandBytes) : Pattern := ⟨0xFE, c.display⟩
def CommandBytes.patPage (c : CommandBytes) : Pattern := ⟨0xF0, c.page⟩
def CommandBytes.patCom (c : CommandBytes) : Pattern := ⟨0xF7, c.com⟩
def CommandBytes.patSysreset (c : CommandBytes) : Pattern := ⟨0xFF, c.sysreset⟩
def CommandBytes.patApc (c : CommandBytes) : Pattern := ⟨0xFF, c.apc⟩

/-- The command table of 30_encoding R70: each row, and the instruction a byte that fits it stands for. -/
def CommandBytes.rows (c : CommandBytes) : List (Pattern × (Byte → Instr)) :=
  [ (c.patColLsb, fun b => .cmdColLsb (b.setWidth 4)),
    (c.patColMsb, fun b => .cmdColMsb (b.setWidth 4)),
    (c.patResistor, fun b => .cmdResistor (b.setWidth 3)),
    (c.patPower, fun b => .cmdPower (b.setWidth 3)),
    (c.patScroll, fun b => .cmdScroll (b.setWidth 6)),
    (patEv, fun _ => .cmdEv),
    (c.patSeg, fun b => .cmdSeg (b.getLsbD 0)),
    (c.patBias, fun b => .cmdBias (b.getLsbD 0)),
    (c.patAllpix, fun _ => .cmdAllpix),
    (c.patInverse, fun b => .cmdInverse (b.getLsbD 0)),
    (c.patDisplay, fun b => .cmdDisplay (b.getLsbD 0)),
    (c.patPage, fun b => .cmdPage (b.setWidth 4)),
    (c.patCom, fun b => .cmdCom (b.getLsbD 3)),
    (c.patSysreset, fun _ => .cmdSysreset),
    (c.patApc, fun _ => .cmdApc) ]

/-- The rows' patterns. -/
def CommandBytes.patterns (c : CommandBytes) : List Pattern := c.rows.map (·.1)

/-- No row of a list overlaps a later one. -/
def apartAll : List Pattern → Bool
  | [] => true
  | p :: rest => rest.all p.apart && apartAll rest

/-- Legal values of the `CMD_*` parameters: each is zero in its field, and no two rows overlap, as 30_encoding R70 says
of the table (log 12). -/
def CommandBytes.legal (c : CommandBytes) : Bool :=
  c.patterns.all (fun p => p.value &&& p.mask == p.value) && apartAll c.patterns

/-- The instruction of the first row a byte fits. -/
def readRows : List (Pattern × (Byte → Instr)) → Byte → Except Reject Instr
  | [], b => .error (.noSuchCommand b)
  | (p, instr) :: rest, b => if p.fits b then .ok (instr b) else readRows rest b

/-- A command byte is matched against the patterns of 30_encoding R70 (R82); a byte that fits none is one the block
never emits (R79). -/
def decodeCommand (c : CommandBytes) (b : Byte) : Except Reject Instr := readRows c.rows b

/-- A data byte is a value byte if it immediately follows a command byte `CMD_EV` or `CMD_APC` (`0x81` or
`0xFA`), and a display data byte otherwise (30_encoding R69, R82). `prev` is the byte before it in the stream. -/
def decodeData (c : CommandBytes) (prev : Option (Level × Byte)) (b : Byte) : Except Reject Instr :=
  if prev = some (.low, Config.cmdEv) then
    if b.extractLsb' 6 2 = 0 then .ok (.evValue (b.setWidth 6)) else .error (.badValueByte b)
  else if prev = some (.low, c.apc) then .ok (.apcValue b)
  else .ok (.displayData b)

/-- One byte of the output stream, after the byte `prev` (30_encoding R82). -/
def decodeByte (c : CommandBytes) (prev : Option (Level × Byte)) : Level → Byte → Except Reject Instr
  | .low, b => decodeCommand c b
  | .high, b => decodeData c prev b

/-- A whole output stream, in order (30_encoding R82). -/
def decodeStream (c : CommandBytes) (prev : Option (Level × Byte)) : List (Level × Byte) → Except Reject (List Instr)
  | [] => .ok []
  | (cd, b) :: rest =>
    match decodeByte c prev cd b, decodeStream c (some (cd, b)) rest with
    | .ok i, .ok is => .ok (i :: is)
    | .error r, _ => .error r
    | _, .error r => .error r

/-! ## Host calls -/

/-- `transport`: present or `none` (30_encoding R61). -/
def readTransport : Arg → Option Bool
  | .transport => some true
  | .absent => some false
  | .num _ => none

/-- A natural number (30_encoding R61, R80). -/
def readNat : Arg → Option Nat
  | .num z => if 0 ≤ z then some z.toNat else none
  | .transport | .absent => none

/-- `rstPin`: a natural number or `none` (30_encoding R61). -/
def readRst : Arg → Option (Option Nat)
  | .absent => some none
  | .num z => if 0 ≤ z then some (some z.toNat) else none
  | .transport => none

/-- A Boolean, written 0 or 1 (30_encoding R80). -/
def readBool : Arg → Option Bool
  | .num z => if z = 0 then some false else if z = 1 then some true else none
  | .transport | .absent => none

/-- A coordinate: it must fit `sext_16` (30_encoding R61, R80). -/
def readCoord : Arg → Option (BitVec 16)
  | .num z => if -32768 ≤ z ∧ z ≤ 32767 then some (BitVec.ofInt 16 z) else none
  | .transport | .absent => none

/-- The contrast value: 0..255 (30_encoding R61, R80). -/
def readByte : Arg → Option Byte
  | .num z => if 0 ≤ z ∧ z ≤ 255 then some (BitVec.ofInt 8 z) else none
  | .transport | .absent => none

/-- A call of one of the nine host operations, its arguments read as 30_encoding R61 types them. -/
def readCall : Nat → List Arg → Option Instr
  | 0, [t, clk, cs, cd, rst, xf, yf] => do
    return .beginOp (← readTransport t) (← readNat clk) (← readNat cs) (← readNat cd) (← readRst rst)
      (← readBool xf) (← readBool yf)
  | 1, [] => some .clear
  | 2, [x, y, c] => do return .setPixel (← readCoord x) (← readCoord y) (← readBool c)
  | 3, [on] => do return .setEnabled (← readBool on)
  | 4, [v] => do return .setContrast (← readByte v)
  | 5, [v] => do return .setResistor (← readNat v)
  | 6, [on] => do return .setInverted (← readBool on)
  | 7, [x0, y0, x1, y1] => do
    return .flush (← readCoord x0) (← readCoord y0) (← readCoord x1) (← readCoord y1)
  | 8, [r] => do return .setOrientation (← readNat r)
  | _, _ => none

/-- A host call, refused by name where it is none (30_encoding R60, R61). -/
def decodeCall (selector : Nat) (args : List Arg) : Except Reject Instr :=
  match readCall selector args with
  | some i => .ok i
  | none => .error (if 8 < selector then .noSuchOperation selector else .badArguments selector)

/-- An entry of the input, after the byte `prev` of the output stream. -/
def decode (c : CommandBytes) (prev : Option (Level × Byte)) : Item → Except Reject Instr
  | .call selector args => decodeCall selector args
  | .prim .low b => .ok (.sendCommand b)
  | .prim .high b => .ok (.sendData b)
  | .byte cd b => decodeByte c prev cd b

/-- `flush` with no arguments stands for `flush 0, 0, W-1, H-1` (30_encoding R81). -/
def withDefaults (p : Params) : Item → Item
  | .call 7 [] => .call 7 [.num 0, .num 0, .num ((p.width : Int) - 1), .num ((p.height : Int) - 1)]
  | .call selector args => .call selector args
  | .prim cd b => .prim cd b
  | .byte cd b => .byte cd b

/-! ## The encoder -/

/-- A Boolean argument (30_encoding R80). -/
def boolArg (b : Bool) : Arg := .num (if b then 1 else 0)

/-- The `rstPin` argument (30_encoding R80). -/
def rstArg : Option Nat → Arg
  | none => .absent
  | some n => .num n

/-- The framed byte of a command, value or data row (30_encoding R67 to R77); none for a host operation or a
primitive. -/
def Instr.framedByte (c : CommandBytes) : Instr → Option (Level × Byte)
  | .cmdColLsb l => some (.low, colLsbByte c l)
  | .cmdColMsb h => some (.low, colMsbByte c h)
  | .cmdResistor r => some (.low, resistorByte c r)
  | .cmdPower p => some (.low, powerByte c p)
  | .cmdScroll s => some (.low, scrollByte c s)
  | .cmdEv => some (.low, Config.cmdEv)
  | .cmdSeg m => some (.low, segByte c m)
  | .cmdBias b => some (.low, biasByte c b)
  | .cmdAllpix => some (.low, c.allpix)
  | .cmdInverse i => some (.low, inverseByte c i)
  | .cmdDisplay d => some (.low, displayByte c d)
  | .cmdPage p => some (.low, pageByte c p)
  | .cmdCom m => some (.low, comByte c m)
  | .cmdSysreset => some (.low, c.sysreset)
  | .cmdApc => some (.low, c.apc)
  | .evValue v => some (.high, evValueByte v)
  | .apcValue a => some (.high, a)
  | .displayData d => some (.high, d)
  | .beginOp .. | .clear | .setPixel .. | .setEnabled _ | .setContrast _ | .setResistor _ | .setInverted _
  | .flush .. | .setOrientation _ | .sendCommand _ | .sendData _ => none

/-- The entry an instruction is written as: `selector(arguments)` with the selectors of 30_encoding R60, a primitive,
or a framed byte. -/
def encode (c : CommandBytes) : Instr → Item
  | .beginOp t clk cs cd rst xf yf =>
    .call 0 [if t then .transport else .absent, .num clk, .num cs, .num cd, rstArg rst, boolArg xf, boolArg yf]
  | .clear => .call 1 []
  | .setPixel x y color => .call 2 [.num x.toInt, .num y.toInt, boolArg color]
  | .setEnabled on => .call 3 [boolArg on]
  | .setContrast v => .call 4 [.num v.toNat]
  | .setResistor v => .call 5 [.num v]
  | .setInverted on => .call 6 [boolArg on]
  | .flush x0 y0 x1 y1 => .call 7 [.num x0.toInt, .num y0.toInt, .num x1.toInt, .num y1.toInt]
  | .setOrientation r => .call 8 [.num r]
  | .sendCommand b => .prim .low b
  | .sendData b => .prim .high b
  | .cmdColLsb l => .byte .low (colLsbByte c l)
  | .cmdColMsb h => .byte .low (colMsbByte c h)
  | .cmdResistor r => .byte .low (resistorByte c r)
  | .cmdPower p => .byte .low (powerByte c p)
  | .cmdScroll s => .byte .low (scrollByte c s)
  | .cmdEv => .byte .low Config.cmdEv
  | .cmdSeg m => .byte .low (segByte c m)
  | .cmdBias b => .byte .low (biasByte c b)
  | .cmdAllpix => .byte .low c.allpix
  | .cmdInverse i => .byte .low (inverseByte c i)
  | .cmdDisplay d => .byte .low (displayByte c d)
  | .cmdPage p => .byte .low (pageByte c p)
  | .cmdCom m => .byte .low (comByte c m)
  | .cmdSysreset => .byte .low c.sysreset
  | .cmdApc => .byte .low c.apc
  | .evValue v => .byte .high (evValueByte v)
  | .apcValue a => .byte .high a
  | .displayData d => .byte .high d

/-- Whether an instruction may stand after the byte `prev` of the output stream: a value byte stands immediately after
its command, a display data byte anywhere else (30_encoding R69, R82). -/
def Instr.standsAfter (c : CommandBytes) (prev : Option (Level × Byte)) : Instr → Bool
  | .evValue _ => prev == some (.low, Config.cmdEv)
  | .apcValue _ => prev == some (.low, c.apc)
  | .displayData _ => prev != some (.low, Config.cmdEv) && prev != some (.low, c.apc)
  | .beginOp .. | .clear | .setPixel .. | .setEnabled _ | .setContrast _ | .setResistor _ | .setInverted _
  | .flush .. | .setOrientation _ | .sendCommand _ | .sendData _ | .cmdColLsb _ | .cmdColMsb _ | .cmdResistor _
  | .cmdPower _ | .cmdScroll _ | .cmdEv | .cmdSeg _ | .cmdBias _ | .cmdAllpix | .cmdInverse _ | .cmdDisplay _
  | .cmdPage _ | .cmdCom _ | .cmdSysreset | .cmdApc => true

/-! ## The opcode table's words -/

/-- Arguments of zeros for a host operation: an absent transport or reset pin, the number 0 elsewhere. -/
def zeroArgs : Nat → List Arg
  | 0 => [.absent, .num 0, .num 0, .num 0, .absent, .num 0, .num 0]
  | 2 => [.num 0, .num 0, .num 0]
  | 3 | 4 | 5 | 6 | 8 => [.num 0]
  | 7 => [.num 0, .num 0, .num 0, .num 0]
  | _ => []

/-- The entry a word of spec/opcode_table.json stands for: a selector 0..8 is a host call with arguments of zeros, any
other byte a command byte. The table's encoding spaces overlap (log 2): 0..8 are selectors AND column nibbles AND value
bytes, and the word alone does not tell which is meant. -/
def tableItem (nbits w : Nat) : Item :=
  let v := w % 2 ^ nbits
  if v ≤ 8 then .call v (zeroArgs v)
  else if v ≤ 255 then .byte .low (BitVec.ofNat 8 v)
  else .call v []

/-- The instruction the decoder reads from a word of the opcode table, the command bytes at their defaults. -/
def decodeTableWord (nbits w : Nat) : Option Instr :=
  match decode Config.commands none (tableItem nbits w) with
  | .ok i => some i
  | .error _ => none

end Sys2Proof
end

