-- ==== Sys2Proof/Machine/State.lean ====
section
/-! DEFINITION. The state of the block (10_state R17), the receiving controller's state (20_memory R48), and the state
at construction. -/

namespace Sys2Proof.Machine

/-- The controller states (10_state R22). -/
inductive Ctl where
  | uninit
  | initializing
  | enabled
  | disabled
  deriving DecidableEq, Repr

/-- The event alphabet (30_encoding R63). The only pin mode is OUTPUT and the only bit order MSB first (R62, R63), so
neither is a field. -/
inductive Event where
  /-- `PinMode(pin, OUTPUT)` -/
  | pinMode (pin : Nat)
  /-- `PinLevel(pin, lvl)` -/
  | pinLevel (pin : Nat) (lvl : Level)
  /-- `BeginTx(clock, MSBFIRST, mode)` -/
  | beginTx (clock : Nat) (mode : Fin 4)
  /-- `Xfer(b)` -/
  | xfer (b : Byte)
  /-- `EndTx` -/
  | endTx
  /-- `Delay(n)`, in milliseconds -/
  | delay (n : Nat)
  deriving DecidableEq, Repr

/-- The controller configuration recorded by a successful `begin` (10_state R23). -/
structure Cfg where
  clock : Nat
  cs : Nat
  cd : Nat
  rst : Option Nat
  xflip : Bool
  yflip : Bool
  hoffset : Int
  deriving DecidableEq, Repr

/-- A byte memory. `cells` lists the bytes that are known by address; every other byte is 0 when `draw` is `none`, and
the free value `Config.freeByte k` of its address when `draw` is `some k` (log 6). -/
structure Memory where
  draw : Option Nat
  cells : List Host.Cell
  deriving DecidableEq, Repr

/-- The receiving controller (20_memory R48). The column pointer is held in two parts because the two column commands
set its low four bits and the bits above them apart (R50): `col = 16 * colHi + colLo`. -/
structure Rx where
  /-- the display RAM, `pram[page][col]` at the address `page * PANEL_COLS + col` -/
  pram : Memory
  colHi : Nat
  colLo : BitVec 4
  page : Nat
  /-- the last byte delivered was the command `0x81` or `0xFA` (R53) -/
  argNext : Bool
  /-- the number of the next free value; the model's own field (log 10) -/
  draws : Nat
  deriving DecidableEq, Repr

/-- The state of the block (10_state R17), with the receiver (20_memory R48), the parameters the block was built with
(00_scope R8) and the calls the host has not made yet (R17: "the program, not state"; log 1). -/
structure State where
  /-- the parameters, constant for the life of the block (log 5) -/
  par : Params
  /-- the framebuffer (R18) -/
  fb : Memory
  /-- the orientation (R19) -/
  orient : Orient
  /-- the enabled flag (R20) -/
  enabled : Bool
  /-- the deferred-flush counter (R21) -/
  dfc : Nat
  /-- the controller state (R22) -/
  ctl : Ctl
  /-- the controller configuration (R23) -/
  cfg : Option Cfg
  /-- the events emitted, oldest first (R26) -/
  trace : List Event
  /-- the configuration errors reported, oldest first (R27) -/
  diag : List DiagCode
  /-- the sticky fault mark (R28) -/
  fault : Option FaultCode
  /-- the receiving controller (20_memory R48) -/
  rx : Rx
  /-- the host's operations not yet called, in call order; the model's own field (log 1) -/
  input : List Item
  deriving DecidableEq, Repr

/-- Why a step stops. -/
inductive Fault where
  /-- The sticky fault mark is set: "a faulted state takes no further step" (10_state R28, 60_exceptions R130). Raised
  by every step and every instruction in such a state, and by nothing else. Safe: the spec gives such a run no
  meaning (R146). -/
  | stopped (code : FaultCode)
  deriving DecidableEq, Repr

/-- Why a step has no meaning for what it found. -/
inductive Refusal where
  /-- An instruction with no meaning in this model: raised by an arm of `exec` alone. No arm does. Safe. -/
  | notModelled (mnemonic : String)
  /-- The entry at the head of the input is no instruction (30_encoding R60, R61, R80; log 2). Raised by `step` alone.
  Safe: the spec's own transcriber refuses such text. -/
  | undecodable (why : Reject)
  deriving DecidableEq, Repr

/-- The number of the framebuffer's draw, and of the receiver's first (log 4, 10). -/
def firstDraw : Nat := 0

/-- The receiver before any event: display RAM and pointers unspecified (20_memory R48), no byte delivered. -/
def Rx.initial : Rx :=
  { pram := ⟨some (firstDraw + 1), []⟩
    colHi := Config.freeCol (firstDraw + 1) / 16
    colLo := BitVec.ofNat 4 (Config.freeCol (firstDraw + 1))
    page := Config.freePage (firstDraw + 1)
    argNext := false
    draws := firstDraw + 2 }

/-- Construction (70_reset R147) with given parameters: the column "at construction" of 10_state R36. -/
def State.construct (p : Params) : State :=
  { par := p
    fb := ⟨some firstDraw, []⟩
    orient := Config.orient0
    enabled := Config.enabled0
    dfc := Config.dfc0
    ctl := .uninit
    cfg := none
    trace := []
    diag := []
    fault := none
    rx := Rx.initial
    input := [] }

/-- The block of the described instance right after construction, its only reset (70_reset R147). -/
def State.reset : State := State.construct Config.params

end Sys2Proof.Machine
end

