-- ==== Sys2Proof/Machine/Memory.lean ====
section
/-! DEFINITION. Byte memories in one canonical form: known bytes by rising address, none of them equal to what an
unlisted address is known to hold (log 6). -/

namespace Sys2Proof.Machine

/-- What an unlisted address holds, where it is known: 0 after a clear, nothing after a draw. -/
def Memory.unlisted (m : Memory) : Option Byte :=
  match m.draw with
  | none => some 0
  | some _ => none

/-- The byte listed at an address. -/
def Memory.lookup : List Host.Cell → Nat → Option Byte
  | [], _ => none
  | (k, b) :: rest, a => if a = k then some b else Memory.lookup rest a

/-- The byte at an address (20_memory R45): the last one written, else 0 or the free value of the memory's draw. -/
def Memory.read (m : Memory) (a : Nat) : Byte :=
  match Memory.lookup m.cells a with
  | some b => b
  | none =>
    match m.draw with
    | none => 0
    | some k => Config.freeByte k a

/-- List a byte at its place by address, replacing the one listed there. -/
def Memory.insert : List Host.Cell → Nat → Byte → List Host.Cell
  | [], a, b => [(a, b)]
  | (k, c) :: rest, a, b =>
    if a < k then (a, b) :: (k, c) :: rest
    else if a = k then (a, b) :: rest
    else (k, c) :: Memory.insert rest a b

/-- Remove every byte listed at an address. -/
def Memory.erase : List Host.Cell → Nat → List Host.Cell
  | [], _ => []
  | (k, c) :: rest, a => if a = k then Memory.erase rest a else (k, c) :: Memory.erase rest a

/-- Write one byte. The byte that an unlisted address holds is not listed. -/
def Memory.write (m : Memory) (a : Nat) (b : Byte) : Memory :=
  if m.unlisted = some b then { m with cells := Memory.erase m.cells a }
  else { m with cells := Memory.insert m.cells a b }

/-- Every byte 0 (41_framebuffer R97). -/
def Memory.zeroed : Memory := ⟨none, []⟩

/-- Every byte unspecified: the draw of number `k`. -/
def Memory.drawn (k : Nat) : Memory := ⟨some k, []⟩

/-- The listed addresses strictly rise, above `lo` where one is given, and no listed byte is the one an unlisted
address holds. -/
def Memory.cellsOk (unlisted : Option Byte) : Option Nat → List Host.Cell → Bool
  | _, [] => true
  | lo, (k, b) :: rest =>
    (match lo with
      | none => true
      | some l => decide (l < k))
    && unlisted != some b && Memory.cellsOk unlisted (some k) rest

/-- The canonical form, with every listed address below `size`. -/
def Memory.wf (size : Nat) (m : Memory) : Bool :=
  Memory.cellsOk m.unlisted none m.cells && m.cells.all fun c => decide (c.1 < size)

end Sys2Proof.Machine
end

