-- ==== Sys2Proof/Machine/Receiver.lean ====
section
/-! DEFINITION. Line levels and the byte stream read off a list of events (10_state R29, 30_encoding R64), and the
receiving controller as a function of the events (20_memory R48 to R55). -/

namespace Sys2Proof.Machine

/-! ## Levels and bytes -/

/-- The level of the last `PinLevel` event for a pin, where there is one (10_state R29). -/
def lastLevel : List Event → Nat → Option Level
  | [], _ => none
  | .pinLevel p l :: rest, pin =>
    match lastLevel rest pin with
    | some l' => some l'
    | none => if p = pin then some l else none
  | .pinMode _ :: rest, pin => lastLevel rest pin
  | .beginTx _ _ :: rest, pin => lastLevel rest pin
  | .xfer _ :: rest, pin => lastLevel rest pin
  | .endTx :: rest, pin => lastLevel rest pin
  | .delay _ :: rest, pin => lastLevel rest pin

/-- `level(pin)` (10_state R29). The level of a pin that no event has driven is unspecified: a free value (log 9). -/
def lineLevel (t : List Event) (pin : Nat) : Level :=
  match lastLevel t pin with
  | some l => l
  | none => Config.freeLevel pin

/-- `level(pin)` after one more event. -/
def stepLevel (pin : Nat) (l : Level) : Event → Level
  | .pinLevel p l' => if p = pin then l' else l
  | .pinMode _ | .beginTx _ _ | .xfer _ | .endTx | .delay _ => l

/-- The byte stream of a list of events, from a level of the CD line on (30_encoding R64). -/
def bytesFrom (cd : Nat) (l : Level) : List Event → List (Level × Byte)
  | [] => []
  | e :: rest =>
    match e with
    | .xfer b => (l, b) :: bytesFrom cd l rest
    | .pinLevel _ _ | .pinMode _ | .beginTx _ _ | .endTx | .delay _ => bytesFrom cd (stepLevel cd l e) rest

/-- `bytes(trace)` for a CD pin (30_encoding R64): LOW is a command byte, HIGH a data byte. -/
def bytesOf (cd : Nat) (t : List Event) : List (Level × Byte) := bytesFrom cd (Config.freeLevel cd) t

/-- The eight bits of a transfer in the order they go onto the wire, most significant first (30_encoding R66). -/
def wireBits (b : Byte) : List Bool := [7, 6, 5, 4, 3, 2, 1, 0].map b.getLsbD

/-! ## The receiver's registers -/

/-- The column pointer `col` (20_memory R48). -/
def Rx.col (r : Rx) : Nat := 16 * r.colHi + r.colLo.toNat

/-- Set the whole column pointer. -/
def Rx.setCol (r : Rx) (n : Nat) : Rx := { r with colHi := n / 16, colLo := BitVec.ofNat 4 n }

/-- `col[7:4] <- h` (20_memory R50). -/
def Rx.setColHi (r : Rx) (h : BitVec 4) : Rx := { r with colHi := h.toNat }

/-- `col[3:0] <- l` (20_memory R50). -/
def Rx.setColLo (r : Rx) (l : BitVec 4) : Rx := { r with colLo := l }

/-- The address of `pram[page][col]`. -/
def pramAddr (p : Params) (page col : Nat) : Nat := page * p.panelCols + col

/-- The byte `pram[page][col]` (20_memory R48). -/
def Rx.pramByte (p : Params) (r : Rx) (page col : Nat) : Byte := r.pram.read (pramAddr p page col)

/-- Whether the pointers name a byte of the display RAM (20_memory R52). -/
def Rx.inRange (p : Params) (r : Rx) : Bool := decide (r.col < p.panelCols) && decide (r.page < p.panelPages)

/-- `col <- draw`. -/
def Rx.drawCol (r : Rx) : Rx := { r.setCol (Config.freeCol r.draws) with draws := r.draws + 1 }

/-- `col <- draw` and `page <- draw` (20_memory R54). -/
def Rx.drawPointers (r : Rx) : Rx :=
  { r.setCol (Config.freeCol r.draws) with page := Config.freePage r.draws, draws := r.draws + 1 }

/-- `pram <- draw` (every byte) and `col <- draw` (20_memory R52). -/
def Rx.drawRam (r : Rx) : Rx :=
  { r.setCol (Config.freeCol r.draws) with pram := Memory.drawn r.draws, draws := r.draws + 1 }

/-- Every field of Rx becomes a draw (20_memory R55). -/
def Rx.drawAll (r : Rx) : Rx :=
  { r.setCol (Config.freeCol r.draws) with
    pram := Memory.drawn r.draws, page := Config.freePage r.draws, draws := r.draws + 1 }

/-! ## Delivered bytes -/

/-- A command byte other than the column and page commands: system reset (`0xE2`) makes the display RAM a draw, and
every one makes both pointers draws (20_memory R54). -/
def Rx.otherCommand (p : Params) (r : Rx) (b : Byte) : Rx :=
  if b = p.cmd.sysreset then r.drawAll else r.drawPointers

/-- The effect of a delivered command byte on the display RAM and the pointers (20_memory R50, R51, R54). The receiver
knows the commands by the values the block sends them with, the `CMD_*` parameters; the spec writes their defaults
`0x10`, `0x00`, `0xB0` and `0xE2` (log 12). -/
def Rx.command (p : Params) (r : Rx) (b : Byte) : Rx :=
  if p.cmd.patColMsb.fits b then r.setColHi (b.setWidth 4)
  else if p.cmd.patColLsb.fits b then r.setColLo (b.setWidth 4)
  else if p.cmd.patPage.fits b then { r with page := (b.setWidth 4).toNat }
  else r.otherCommand p b

/-- The effect of a delivered data byte in no argument position (20_memory R52). -/
def Rx.data (p : Params) (r : Rx) (b : Byte) : Rx :=
  if r.inRange p then
    let w := { r with pram := r.pram.write (pramAddr p r.page r.col) b }
    if r.col + 1 < p.panelCols then w.setCol (r.col + 1) else w.drawCol
  else r.drawRam

/-- The effect of an argument byte: the column pointer becomes a draw, and so does the byte it pointed to, if that was
in range (20_memory R53). -/
def Rx.argument (p : Params) (r : Rx) : Rx :=
  let addr := pramAddr p r.page r.col
  (if r.inRange p then { r with pram := r.pram.write addr (Config.freeByte r.draws addr) } else r).drawCol

/-- Whether a command byte is the first of a two-byte command (30_encoding R69, 20_memory R53). -/
def takesValue (c : CommandBytes) (b : Byte) : Bool := b == Config.cmdEv || b == c.apc

/-- One delivered byte (20_memory R49 to R54). -/
def Rx.deliver (p : Params) (r : Rx) : Level → Byte → Rx
  | .low, b => { r.command p b with argNext := takesValue p.cmd b }
  | .high, b => { (if r.argNext then r.argument p else r.data p b) with argNext := false }

/-! ## Events -/

/-- The levels of the three lines as the receiver sees them; `rst` is none where no reset pin is configured. -/
structure Lines where
  cs : Level
  cd : Level
  rst : Option Level
  deriving DecidableEq, Repr

/-- The levels of the configured pins at the end of a trace (10_state R29). -/
def Lines.of (c : Cfg) (t : List Event) : Lines :=
  { cs := lineLevel t c.cs, cd := lineLevel t c.cd, rst := c.rst.map (lineLevel t) }

/-- The levels after one more event. -/
def Lines.step (c : Cfg) (ln : Lines) (e : Event) : Lines :=
  { cs := stepLevel c.cs ln.cs e
    cd := stepLevel c.cd ln.cd e
    rst :=
      match c.rst, ln.rst with
      | some pin, some l => some (stepLevel pin l e)
      | _, _ => ln.rst }

/-- A byte is delivered only with chip-select LOW and, where a reset pin is configured, that line HIGH
(20_memory R49). -/
def Lines.delivers (ln : Lines) : Bool := ln.cs == .low && ln.rst != some .low

/-- The receiver after one event that finds the lines at given levels (20_memory R49, R55). -/
def recvEvent (p : Params) (c : Cfg) (ln : Lines) (r : Rx) : Event → Rx
  | .pinLevel pin l => if c.rst = some pin ∧ l = .low then r.drawAll else r
  | .xfer b => if ln.delivers then r.deliver p ln.cd b else r
  | .pinMode _ | .beginTx _ _ | .endTx | .delay _ => r

/-- The receiver after a list of events (20_memory R48). -/
def recvEvents (p : Params) (c : Cfg) (ln : Lines) (r : Rx) : List Event → Rx
  | [] => r
  | e :: rest => recvEvents p c (ln.step c e) (recvEvent p c ln r e) rest

/-- `recv(trace)` for a configuration, from an unspecified receiver (20_memory R48). -/
def recv (p : Params) (c : Cfg) (t : List Event) : Rx := recvEvents p c (Lines.of c []) Rx.initial t

end Sys2Proof.Machine
end

