-- ==== Sys2Proof/Machine/Ops.lean ====
section
/-! DEFINITION. The named operations over the state: the framebuffer primitives, raising a fault, reporting a
configuration error, emitting events, and the byte frames of the protocol layer. -/

namespace Sys2Proof.Machine

/-! ## Outcomes -/

/-- `raise Fault(code)` (00_scope R12, 60_exceptions R130): the operation ends, the sticky mark is set, and nothing
else changes. The one place where a fault is taken; the spec has no way back from one (R137). -/
def State.raise (s : State) (code : FaultCode) : State := { s with fault := some code }

/-- `report ConfigError(code)` (00_scope R12, 60_exceptions R129): the code is appended to the diagnostics. -/
def State.report (s : State) (code : DiagCode) : State := { s with diag := s.diag ++ [code] }

/-- How an operation called in state `s` ends: with the state it reached, or with the fault it raised. Every check of the
spec comes before the operation's first event and write, so a fault leaves `s` but for the mark (60_exceptions R130). -/
def State.settle (s : State) : Except FaultCode State → State
  | .ok t => t
  | .error code => s.raise code

/-- Run an operation called in state `s`. "A faulted state takes no further step" (10_state R28, 60_exceptions R130,
the first check of R134). -/
def State.run (s : State) (result : Except FaultCode State) : Host.Outcome State Fault Refusal :=
  match s.fault with
  | none => .next (s.settle result)
  | some code => .fault (.stopped code)

/-! ## Geometry -/

/-- The configuration check (00_scope R7): no block is built with an illegal size (60_exceptions R131). -/
def buildGeometry (width height : Nat) : Except FaultCode Geometry :=
  if h : Config.LegalGeometry width height then .ok ⟨width, height, h⟩ else .error .badGeometry

/-- The numbers of the codes (60_exceptions R131); "no rule depends on them". -/
def faultNumber : FaultCode → Nat
  | .noTransport => 16
  | .rebeginNoTransport => 17
  | .badPinConfig => 18
  | .badArgument => 19
  | .flushColumnRange => 20
  | .badIndex => 21
  | .badGeometry => 22

/-- The number of a configuration error (60_exceptions R131). -/
def diagNumber : DiagCode → Nat
  | .cfgNoTransport => 1

/-- The numbers of the controller states (10_state R22); "no rule depends on them". -/
def ctlNumber : Ctl → Nat
  | .uninit => 0
  | .initializing => 1
  | .enabled => 2
  | .disabled => 3

/-! ## The framebuffer primitives -/

/-- `MemRead(i, 1)` (00_scope R10, 20_memory R37): an index outside the buffer raises `BAD_INDEX`. -/
def State.memRead (s : State) (i : Int) : Except FaultCode Byte :=
  if 0 ≤ i ∧ i < s.par.size then .ok (s.fb.read i.toNat) else .error .badIndex

/-- `MemWrite(i, 1, v)` (00_scope R10, 20_memory R37): an index outside the buffer raises `BAD_INDEX`. -/
def State.memWrite (s : State) (i : Int) (v : Byte) : Except FaultCode State :=
  if 0 ≤ i ∧ i < s.par.size then .ok { s with fb := s.fb.write i.toNat v } else .error .badIndex

/-- Read the bytes at several indices, in order. -/
def State.memReads (s : State) : List Int → Except FaultCode (List Byte)
  | [] => .ok []
  | i :: rest =>
    match s.memRead i, s.memReads rest with
    | .ok b, .ok bs => .ok (b :: bs)
    | .error code, _ => .error code
    | _, .error code => .error code

/-! ## Events and frames -/

/-- `emit(e)` for each event of a list, in order (00_scope R11): the events are appended to the trace, and the receiver
on the configured pins takes them (20_memory R48; log 8). -/
def State.emit (s : State) (evs : List Event) : State :=
  { s with
    trace := s.trace ++ evs
    rx :=
      match s.cfg with
      | none => s.rx
      | some c => recvEvents s.par c (Lines.of c s.trace) s.rx evs }

/-- `frame(lvl, b)`: the six events of one byte (30_encoding R65). -/
def frame (mode : Fin 4) (c : Cfg) (lvl : Level) (b : Byte) : List Event :=
  [.pinLevel c.cd lvl, .beginTx c.clock mode, .pinLevel c.cs .low, .xfer b, .pinLevel c.cs .high, .endTx]

/-- The frames of several bytes, in order. -/
def frames (mode : Fin 4) (c : Cfg) (bs : List (Level × Byte)) : List Event :=
  bs.flatMap fun x => frame mode c x.1 x.2

/-- Send bytes through the protocol layer, `sendCommand` for a LOW byte and `sendData` for a HIGH one
(40_protocol R83, R84). Without a transport the first send raises `NO_TRANSPORT` before any event (R86). -/
def State.send (s : State) (bs : List (Level × Byte)) : Except FaultCode State :=
  match s.cfg with
  | none => .error .noTransport
  | some c => .ok (s.emit (frames s.par.spiMode c bs))

end Sys2Proof.Machine
end

