-- ==== Sys2Proof/Machine/Operands.lean ====
section
/-! DEFINITION. How the operations read their arguments: signed coordinates, the coordinate transform, the flush box,
and the fields of the bytes sent. -/

namespace Sys2Proof.Machine

/-- `sext_16`: a 16-bit pattern read as two's complement (00_scope R9). -/
def sext16 (v : BitVec 16) : Int := v.toInt

/-- `floor_div(a, n)`, rounded toward minus infinity (00_scope R9). -/
def floorDiv (a n : Int) : Int := Int.fdiv a n

/-- `reflect_N(v) = N - 1 - v` (00_scope R15). -/
def reflect (n v : Int) : Int := n - 1 - v

/-- The numbers `a, a+1, ..., b`; none if `a > b` (00_scope R13). -/
def span (a b : Int) : List Int := (List.range (b - a + 1).toNat).map fun (k : Nat) => a + (k : Int)

/-! ## Orientation -/

/-- The orientation of a number 0..3 (10_state R19). -/
def orientOf : Nat → Option Orient
  | 0 => some .deg0
  | 1 => some .deg90
  | 2 => some .deg180
  | 3 => some .deg270
  | _ => none

/-- The number of an orientation (10_state R19). -/
def orientNumber : Orient → Nat
  | .deg0 => 0
  | .deg90 => 1
  | .deg180 => 2
  | .deg270 => 3

/-- `logicalDims(r)` (41_framebuffer R89). -/
def logicalDims (p : Params) : Orient → Int × Int
  | .deg0 | .deg180 => (p.width, p.height)
  | .deg90 | .deg270 => (p.height, p.width)

/-- The logical bounds check (41_framebuffer R90). -/
def inLogical (p : Params) (r : Orient) (x y : Int) : Bool :=
  decide (0 ≤ x ∧ x < (logicalDims p r).1) && decide (0 ≤ y ∧ y < (logicalDims p r).2)

/-- `T(r, x, y)` (41_framebuffer R91). -/
def transform (p : Params) : Orient → Int → Int → Int × Int
  | .deg0, x, y => (x, y)
  | .deg90, x, y => (reflect p.height y, x)
  | .deg180, x, y => (reflect p.width x, reflect p.height y)
  | .deg270, x, y => (y, reflect p.width x)

/-- The physical re-check (41_framebuffer R92). -/
def inPhysical (p : Params) (q : Int × Int) : Bool :=
  decide (0 ≤ q.1 ∧ q.1 < p.width) && decide (0 ≤ q.2 ∧ q.2 < p.height)

/-- `pixaddr(px, py) = (index, bit)` (20_memory R39). -/
def pixaddr (p : Params) (q : Int × Int) : Int × Nat := (q.1 + floorDiv q.2 8 * p.width, (q.2 % 8).toNat)

/-- `pixel(px, py) = S.fb[index][bit]` (20_memory R39). -/
def State.pixel (s : State) (q : Int × Int) : Bool :=
  (s.fb.read (pixaddr s.par q).1.toNat).getLsbD (pixaddr s.par q).2

/-- The byte index and bit a logical coordinate writes, where it writes at all (41_framebuffer R90 to R92). -/
def pixelTarget (p : Params) (r : Orient) (x y : Int) : Option (Int × Nat) :=
  if inLogical p r x y then
    if inPhysical p (transform p r x y) then some (pixaddr p (transform p r x y)) else none
  else none

/-- The byte with bit `k` set (41_framebuffer R93). -/
def setBit (b : Byte) (k : Nat) : Byte := b ||| ((1 : Byte) <<< k)

/-- The byte with bit `k` cleared (41_framebuffer R93). -/
def clearBit (b : Byte) (k : Nat) : Byte := b &&& ~~~((1 : Byte) <<< k)

/-! ## The flush box -/

/-- `p0` (42_flush R104). -/
def firstPage (y0 : Int) : Int := floorDiv (max y0 0) 8

/-- `p1` (42_flush R104). -/
def lastPage (p : Params) (y1 : Int) : Int := floorDiv (min y1 ((p.height : Int) - 1)) 8

/-- A column outside the buffer (42_flush R105). -/
def badColumns (p : Params) (x0 x1 : Int) : Bool :=
  decide (x0 < 0) || decide (x0 > (p.width : Int) - 1) || (decide (x0 ≤ x1) && decide (x1 > (p.width : Int) - 1))

/-- The high nibble of a column value, `(c >> 4) & 0x0F` (30_encoding R71). -/
def colHigh (c : Int) : BitVec 4 := (BitVec.ofInt 8 c).extractLsb' 4 4

/-- The low nibble of a column value, `c & 0x0F` (30_encoding R71). -/
def colLow (c : Int) : BitVec 4 := BitVec.ofInt 4 c

/-- The page field, `p & 0x0F` (30_encoding R73). -/
def pageField (p : Int) : BitVec 4 := BitVec.ofInt 4 p

/-! ## Settings -/

/-- The contrast value masked to six bits (30_encoding R72). -/
def contrastByte (value : Byte) : Byte := value &&& 0x3F

/-- A resistor value in 0..7 as its field (30_encoding R74). -/
def resistorField (value : Nat) : BitVec 3 := BitVec.ofNat 3 value

/-- Pins the block refuses: CS equal to CD, or RST equal to either (60_exceptions R131). -/
def badPins (cs cd : Nat) (rst : Option Nat) : Bool := cs == cd || rst == some cs || rst == some cd

end Sys2Proof.Machine
end

