-- ==== Sys2Proof/Machine/Commands.lean ====
section
/-! DEFINITION. The controller command bytes and data bytes as instructions: the block sends the byte in its frame
(30_encoding R65, R67), and the receiver does with it what 20_memory R49 to R55 say (log 3). -/

namespace Sys2Proof.Machine

/-- Set column address, low nibble (30_encoding R70, R71): the receiver takes `col[3:0]` (20_memory R50). -/
def execCmdColLsb (l : BitVec 4) (s : State) : Host.Outcome State Fault Refusal :=
  s.run (s.send [(.low, colLsbByte s.par.cmd l)])

/-- Set column address, high nibble (30_encoding R70, R71): the receiver takes `col[7:4]` (20_memory R50). -/
def execCmdColMsb (h : BitVec 4) (s : State) : Host.Outcome State Fault Refusal :=
  s.run (s.send [(.low, colMsbByte s.par.cmd h)])

/-- Resistor ratio (30_encoding R74); on the receiver as 20_memory R54. -/
def execCmdResistor (r : BitVec 3) (s : State) : Host.Outcome State Fault Refusal :=
  s.run (s.send [(.low, resistorByte s.par.cmd r)])

/-- Power control (30_encoding R70); on the receiver as 20_memory R54. -/
def execCmdPower (p : BitVec 3) (s : State) : Host.Outcome State Fault Refusal :=
  s.run (s.send [(.low, powerByte s.par.cmd p)])

/-- Scroll line (30_encoding R70); on the receiver as 20_memory R54. -/
def execCmdScroll (v : BitVec 6) (s : State) : Host.Outcome State Fault Refusal :=
  s.run (s.send [(.low, scrollByte s.par.cmd v)])

/-- Electronic volume, first byte (30_encoding R69, R70): the next data byte is its value (20_memory R53). -/
def execCmdEv (s : State) : Host.Outcome State Fault Refusal :=
  s.run (s.send [(.low, Config.cmdEv)])

/-- SEG direction (30_encoding R75); on the receiver as 20_memory R54. -/
def execCmdSeg (m : Bool) (s : State) : Host.Outcome State Fault Refusal :=
  s.run (s.send [(.low, segByte s.par.cmd m)])

/-- Bias ratio (30_encoding R70); on the receiver as 20_memory R54. -/
def execCmdBias (b : Bool) (s : State) : Host.Outcome State Fault Refusal :=
  s.run (s.send [(.low, biasByte s.par.cmd b)])

/-- All-pixel-off (30_encoding R70); on the receiver as 20_memory R54. -/
def execCmdAllpix (s : State) : Host.Outcome State Fault Refusal :=
  s.run (s.send [(.low, s.par.cmd.allpix)])

/-- Inverse (30_encoding R76); on the receiver as 20_memory R54. -/
def execCmdInverse (i : Bool) (s : State) : Host.Outcome State Fault Refusal :=
  s.run (s.send [(.low, inverseByte s.par.cmd i)])

/-- Display on or off (30_encoding R76); on the receiver as 20_memory R54. -/
def execCmdDisplay (d : Bool) (s : State) : Host.Outcome State Fault Refusal :=
  s.run (s.send [(.low, displayByte s.par.cmd d)])

/-- Set page address (30_encoding R73): the receiver takes `page` (20_memory R51). -/
def execCmdPage (p : BitVec 4) (s : State) : Host.Outcome State Fault Refusal :=
  s.run (s.send [(.low, pageByte s.par.cmd p)])

/-- COM direction (30_encoding R75); on the receiver as 20_memory R54. -/
def execCmdCom (m : Bool) (s : State) : Host.Outcome State Fault Refusal :=
  s.run (s.send [(.low, comByte s.par.cmd m)])

/-- System reset (30_encoding R70): the display RAM becomes a draw (20_memory R54). -/
def execCmdSysreset (s : State) : Host.Outcome State Fault Refusal :=
  s.run (s.send [(.low, s.par.cmd.sysreset)])

/-- Advanced program control, first byte (30_encoding R69, R70): the next data byte is its value (20_memory R53). -/
def execCmdApc (s : State) : Host.Outcome State Fault Refusal :=
  s.run (s.send [(.low, s.par.cmd.apc)])

/-- The value byte of electronic volume, data-framed (30_encoding R69, R72). -/
def execEvValue (v : BitVec 6) (s : State) : Host.Outcome State Fault Refusal :=
  s.run (s.send [(.high, evValueByte v)])

/-- The value byte of advanced program control, data-framed (30_encoding R69). -/
def execApcValue (a : Byte) (s : State) : Host.Outcome State Fault Refusal :=
  s.run (s.send [(.high, a)])

/-- A data byte, verbatim (30_encoding R77): the receiver writes it at its pointers and increments the column
(20_memory R52). -/
def execDisplayData (d : Byte) (s : State) : Host.Outcome State Fault Refusal :=
  s.run (s.send [(.high, d)])

end Sys2Proof.Machine
end

