-- ==== Sys2Proof/Machine/Flags.lean ====
section
/-! DEFINITION. The block has no condition codes (10_state R34). What it keeps of its status are the enabled flag and the
controller state; these are their only writers. -/

namespace Sys2Proof.Machine

/-- `S.enabled <- b` (10_state R20): init step 2 and `setEnabled(false)` alone. -/
def State.setEnabledFlag (s : State) (b : Bool) : State := { s with enabled := b }

/-- `S.ctl <- c` (10_state R22): init and `setEnabled(false)` alone. -/
def State.setCtl (s : State) (c : Ctl) : State := { s with ctl := c }

end Sys2Proof.Machine
end

