-- ==== Sys2Proof/Machine/Framebuffer.lean ====
section
/-! DEFINITION. The operations that touch only the framebuffer (41_framebuffer). None of them emits an event. -/

namespace Sys2Proof.Machine

/-- The bit mutation at a byte index (41_framebuffer R93): "on" is gated by the enabled flag, "off" is not. -/
def State.mutatePixel (s : State) (index : Int) (k : Nat) (color : Bool) : Except FaultCode State :=
  match s.memRead index with
  | .error code => .error code
  | .ok b =>
    if color then
      if s.enabled then s.memWrite index (setBit b k) else .ok s
    else s.memWrite index (clearBit b k)

/-- The body of `setPixel` (41_framebuffer R94) on signed coordinates. -/
def State.setPixelAt (s : State) (x y : Int) (color : Bool) : Except FaultCode State :=
  match pixelTarget s.par s.orient x y with
  | none => .ok s
  | some (index, k) => s.mutatePixel index k color

/-- `setPixel(x, y, color)` (41_framebuffer R94). -/
def execSetPixel (x y : BitVec 16) (color : Bool) (s : State) : Host.Outcome State Fault Refusal :=
  s.run (s.setPixelAt (sext16 x) (sext16 y) color)

/-- `setOrientation(r)` (41_framebuffer R96). -/
def execSetOrientation (r : Nat) (s : State) : Host.Outcome State Fault Refusal :=
  s.run <|
    match orientOf r with
    | none => .error .badArgument
    | some o => .ok { s with orient := o }

/-- `clear()` (41_framebuffer R97): every byte zero, the deferred-flush counter zero, no event (R98). -/
def State.cleared (s : State) : State := { s with fb := Memory.zeroed, dfc := 0 }

/-- `clear()` (41_framebuffer R97). -/
def execClear (s : State) : Host.Outcome State Fault Refusal := s.run (.ok s.cleared)

end Sys2Proof.Machine
end

