-- ==== Sys2Proof/Machine/Controller.lean ====
section
/-! DEFINITION. The controller state machine (43_controller): `begin`, the init sequence, enable, disable and the
settings. -/

namespace Sys2Proof.Machine

/-! ## The init sequence -/

/-- Step 1, the control lines (43_controller R113). -/
def controlLines (c : Cfg) : List Event :=
  [.pinMode c.cs, .pinMode c.cd, .pinLevel c.cs .high, .pinLevel c.cd .low]

/-- Step 3, the reset pulse where a reset pin is configured (43_controller R115). -/
def resetPulse (c : Cfg) : List Event :=
  match c.rst with
  | none => []
  | some rst =>
    [.pinMode rst, .pinLevel rst .low, .delay Config.tRst, .pinLevel rst .high, .delay Config.tRst]

/-- The 14 items of step 4, each one command byte or a command byte and its value byte (43_controller R116). -/
def initItems (p : Params) (c : Cfg) : List (List (Level × Byte)) :=
  [ [(.low, p.cmd.sysreset)],
    [(.low, displayByte p.cmd false)],
    [(.low, scrollByte p.cmd 0)],
    [(.low, segByte p.cmd c.xflip)],
    [(.low, comByte p.cmd c.yflip)],
    [(.low, p.cmd.allpix)],
    [(.low, inverseByte p.cmd false)],
    [(.low, biasByte p.cmd p.bias)],
    [(.low, powerByte p.cmd 7)],
    [(.low, resistorByte p.cmd p.initResistor)],
    [(.low, Config.cmdEv), (.high, evValueByte p.initContrast)],
    [(.low, p.cmd.apc), (.high, p.apcValue)],
    [(.low, p.cmd.allpix)],
    [(.low, displayByte p.cmd true)] ]

/-- A cooldown where it is due. -/
def cooldownIf (due : Bool) : List Event := if due then [.delay Config.tCool] else []

/-- The item after which the fixed cooldown stands: power-control-on (43_controller R116). -/
def fixedCooldown : Nat := 9

/-- The items from number `k` on, each followed by the cooldowns due after it (43_controller R116 to R118). -/
def itemEvents (p : Params) (c : Cfg) (k : Nat) : List (List (Level × Byte)) → List Event
  | [] => []
  | bs :: rest =>
    frames p.spiMode c bs ++ cooldownIf (k == fixedCooldown) ++ cooldownIf (k == p.cooldown2.val)
      ++ itemEvents p c (k + 1) rest

/-- Step 4, the command list, with the second cooldown before item 1 if `COOLDOWN2 = 0` (43_controller R117, R118). -/
def commandList (p : Params) (c : Cfg) : List Event :=
  cooldownIf (p.cooldown2.val == 0) ++ itemEvents p c 1 (initItems p c)

/-- `init()` with the recorded configuration `c` (43_controller R118). -/
def State.init (s : State) (c : Cfg) : State :=
  (((((s.setCtl .initializing).emit (controlLines c)).setEnabledFlag true).emit (resetPulse c)).emit
    (commandList s.par c)).cleared.setCtl .enabled

/-! ## begin -/

/-- The configuration a successful `begin` records (43_controller R110, R111; 10_state R24). -/
def recordCfg (clock cs cd : Nat) (rst : Option Nat) (xflip yflip : Bool) : Cfg :=
  { clock := clock, cs := cs, cd := cd, rst := rst, xflip := xflip, yflip := yflip, hoffset := Config.hoffset }

/-- The body of `begin` (43_controller R110, R112). -/
def State.beginWith (s : State) (transport : Bool) (c : Cfg) : Except FaultCode State :=
  if transport then
    if badPins c.cs c.cd c.rst then .error .badPinConfig
    else .ok (({ s with cfg := some c } : State).init c)
  else if s.ctl = .uninit then .ok (s.report .cfgNoTransport)
  else .error .rebeginNoTransport

/-- `begin(transport, clock, csPin, cdPin, rstPin, xFlip, yFlip)` (43_controller R110). -/
def execBegin (transport : Bool) (clock cs cd : Nat) (rst : Option Nat) (xflip yflip : Bool) (s : State) :
    Host.Outcome State Fault Refusal :=
  s.run (s.beginWith transport (recordCfg clock cs cd rst xflip yflip))

/-! ## Enable and disable -/

/-- The events of `setEnabled(false)` (43_controller R120). -/
def disableEvents (p : Params) (c : Cfg) : List Event :=
  frames p.spiMode c [(.low, powerByte p.cmd 0)] ++ [.delay Config.tCool]
    ++ frames p.spiMode c [(.low, displayByte p.cmd false)]
    ++ (match c.rst with
      | none => []
      | some rst => [.pinLevel rst .low])
    ++ [.pinLevel c.cs .low, .pinLevel c.cd .low, .delay Config.tOff]

/-- `setEnabled(false)` with the recorded configuration `c` (43_controller R120). -/
def State.disable (s : State) (c : Cfg) : State :=
  ((s.emit (disableEvents s.par c)).setEnabledFlag false).setCtl .disabled

/-- `setEnabled(on)`: false disables (43_controller R120), true runs init again (R121). -/
def execSetEnabled (on : Bool) (s : State) : Host.Outcome State Fault Refusal :=
  s.run <|
    match s.cfg with
    | none => .error .noTransport
    | some c => .ok (if on then s.init c else s.disable c)

/-! ## Settings -/

/-- `setContrast(value)` (43_controller R122). -/
def execSetContrast (value : Byte) (s : State) : Host.Outcome State Fault Refusal :=
  s.run (s.send [(.low, Config.cmdEv), (.high, contrastByte value)])

/-- `setResistor(value)` (43_controller R123). -/
def execSetResistor (value : Nat) (s : State) : Host.Outcome State Fault Refusal :=
  s.run (if 7 < value then .error .badArgument else s.send [(.low, resistorByte s.par.cmd (resistorField value))])

/-- `setInverted(on)` (43_controller R124). -/
def execSetInverted (on : Bool) (s : State) : Host.Outcome State Fault Refusal :=
  s.run (s.send [(.low, inverseByte s.par.cmd on)])

end Sys2Proof.Machine
end

