-- ==== Sys2Proof/Machine/Flush.lean ====
section
/-! DEFINITION. `flush` (42_flush): the one operation that moves framebuffer bytes to the bus. -/

namespace Sys2Proof.Machine

/-- The three address commands of a page: column high nibble, column low nibble, page (42_flush R106). -/
def addressBytes (cmd : CommandBytes) (c p : Int) : List (Level × Byte) :=
  [(.low, colMsbByte cmd (colHigh c)), (.low, colLsbByte cmd (colLow c)), (.low, pageByte cmd (pageField p))]

/-- The bytes of one page: its address, then one data byte per column, in column order (42_flush R106). -/
def State.pageBytes (s : State) (c x0 x1 p : Int) : Except FaultCode (List (Level × Byte)) :=
  match s.memReads ((span x0 x1).map fun x => x + p * s.par.width) with
  | .error code => .error code
  | .ok ds => .ok (addressBytes s.par.cmd c p ++ ds.map fun d => (.high, d))

/-- The bytes of several pages, in order (42_flush R106). -/
def State.pagesBytes (s : State) (c x0 x1 : Int) : List Int → Except FaultCode (List (Level × Byte))
  | [] => .ok []
  | p :: rest =>
    match s.pageBytes c x0 x1 p, s.pagesBytes c x0 x1 rest with
    | .ok bs, .ok bss => .ok (bs ++ bss)
    | .error code, _ => .error code
    | _, .error code => .error code

/-- The body of `flush` (42_flush R102) on signed coordinates: the deferred-flush short circuit (R103), the page range
(R104), the column fault (R105), then the pages (R106). -/
def State.flushBox (s : State) (x0 y0 x1 y1 : Int) : Except FaultCode State :=
  if s.dfc ≠ 0 then .ok s
  else if firstPage y0 > lastPage s.par y1 then .ok s
  else if badColumns s.par x0 x1 then .error .flushColumnRange
  else
    match s.cfg with
    | none => .error .noTransport
    | some cfg =>
      match s.pagesBytes (x0 + cfg.hoffset) x0 x1 (span (firstPage y0) (lastPage s.par y1)) with
      | .error code => .error code
      | .ok bs => s.send bs

/-- `flush(x0, y0, x1, y1)` (42_flush R102). -/
def execFlush (x0 y0 x1 y1 : BitVec 16) (s : State) : Host.Outcome State Fault Refusal :=
  s.run (s.flushBox (sext16 x0) (sext16 y0) (sext16 x1) (sext16 y1))

end Sys2Proof.Machine
end

