-- ==== Sys2Proof/Machine/Protocol.lean ====
section
/-! DEFINITION. The protocol layer's two primitives (40_protocol). -/

namespace Sys2Proof.Machine

/-- `sendCommand(b)` (40_protocol R83). -/
def execSendCommand (b : Byte) (s : State) : Host.Outcome State Fault Refusal := s.run (s.send [(.low, b)])

/-- `sendData(b)` (40_protocol R84). -/
def execSendData (b : Byte) (s : State) : Host.Outcome State Fault Refusal := s.run (s.send [(.high, b)])

end Sys2Proof.Machine
end

