-- ==== Sys2Proof/Machine/Dispatch.lean ====
section
/-! DEFINITION. What each instruction does: one arm per row of spec/opcode_table.json. -/

namespace Sys2Proof.Machine

def exec (i : Instr) (s : State) : Host.Outcome State Fault Refusal :=
  match i with
  | .beginOp t clk cs cd rst xf yf => Sys2Proof.Machine.execBegin t clk cs cd rst xf yf s
  | .clear => Sys2Proof.Machine.execClear s
  | .setPixel x y c => Sys2Proof.Machine.execSetPixel x y c s
  | .setEnabled on => Sys2Proof.Machine.execSetEnabled on s
  | .setContrast v => Sys2Proof.Machine.execSetContrast v s
  | .setResistor v => Sys2Proof.Machine.execSetResistor v s
  | .setInverted on => Sys2Proof.Machine.execSetInverted on s
  | .flush x0 y0 x1 y1 => Sys2Proof.Machine.execFlush x0 y0 x1 y1 s
  | .setOrientation r => Sys2Proof.Machine.execSetOrientation r s
  | .sendCommand b => Sys2Proof.Machine.execSendCommand b s
  | .sendData b => Sys2Proof.Machine.execSendData b s
  | .cmdColLsb l => Sys2Proof.Machine.execCmdColLsb l s
  | .cmdColMsb h => Sys2Proof.Machine.execCmdColMsb h s
  | .cmdResistor r => Sys2Proof.Machine.execCmdResistor r s
  | .cmdPower p => Sys2Proof.Machine.execCmdPower p s
  | .cmdScroll v => Sys2Proof.Machine.execCmdScroll v s
  | .cmdEv => Sys2Proof.Machine.execCmdEv s
  | .cmdSeg m => Sys2Proof.Machine.execCmdSeg m s
  | .cmdBias b => Sys2Proof.Machine.execCmdBias b s
  | .cmdAllpix => Sys2Proof.Machine.execCmdAllpix s
  | .cmdInverse v => Sys2Proof.Machine.execCmdInverse v s
  | .cmdDisplay d => Sys2Proof.Machine.execCmdDisplay d s
  | .cmdPage p => Sys2Proof.Machine.execCmdPage p s
  | .cmdCom m => Sys2Proof.Machine.execCmdCom m s
  | .cmdSysreset => Sys2Proof.Machine.execCmdSysreset s
  | .cmdApc => Sys2Proof.Machine.execCmdApc s
  | .evValue v => Sys2Proof.Machine.execEvValue v s
  | .apcValue a => Sys2Proof.Machine.execApcValue a s
  | .displayData d => Sys2Proof.Machine.execDisplayData d s

end Sys2Proof.Machine
end

