-- ==== Sys2Proof/Machine/Fetch.lean ====
section
/-! DEFINITION. How the next operation comes to the block: the host calls it (10_state R33; log 1). -/

namespace Sys2Proof.Machine

/-- What stands at the head of the input. -/
inductive Fetched where
  /-- the block has faulted and takes no further step (60_exceptions R130) -/
  | halted (code : FaultCode)
  /-- the host has called nothing: the block waits (70_reset R147) -/
  | waiting
  /-- the entry is no instruction -/
  | rejected (why : Reject)
  /-- an instruction, and the state in which it runs -/
  | ready (i : Instr) (s : State)
  deriving DecidableEq, Repr

/-- The last byte the block put on the bus, which decides what a data byte after it is (30_encoding R82). Before a
`begin` there is none. -/
def State.lastByte (s : State) : Option (Level × Byte) :=
  match s.cfg with
  | none => none
  | some c => (bytesOf c.cd s.trace).getLast?

/-- Take the next entry of the input and decode it; the entry is used up. -/
def State.fetch (s : State) : Fetched :=
  match s.fault, s.input with
  | some code, _ => .halted code
  | none, [] => .waiting
  | none, item :: rest =>
    match decode s.par.cmd s.lastByte (withDefaults s.par item) with
    | .error why => .rejected why
    | .ok i => .ready i { s with input := rest }

/-- Place the entry of an opcode-table word where the next step takes its instruction (log 1, 2). -/
def State.placeWord (s : State) (nbits w : Nat) : State := { s with input := tableItem nbits w :: s.input }

end Sys2Proof.Machine
end

