-- ==== Sys2Proof/Machine/Step.lean ====
section
/-! DEFINITION. One step: the next operation the host calls, run to completion (00_scope R6). -/

namespace Sys2Proof.Machine

/-- One step. A faulted block takes none (60_exceptions R130), and a block with nothing to do waits (70_reset R147). -/
def step (s : State) : Host.Outcome State Fault Refusal :=
  match s.fetch with
  | .halted code => .fault (.stopped code)
  | .waiting => .next s
  | .rejected why => .refused (.undecodable why)
  | .ready i t => exec i t

/-- The state with the instruction of an opcode-table word as the next entry of the input. -/
def State.withFetchWord (s : State) (nbits w : Nat) : State := s.placeWord nbits w

end Sys2Proof.Machine
end

