-- ==== Sys2Proof/Machine/Transcriber.lean ====
section
/-! DEFINITION. The textual form of host programs (30_encoding R80, R81) and the transcriber that reads it. Text is a
list of characters, one line an operation; the transcriber refuses text outside the grammar by its line (log 18). -/

namespace Sys2Proof.Machine

/-- The kinds of argument in the grammar of 30_encoding R80. -/
inductive ArgKind where
  | transport
  | rst
  | bool
  | int
  | nat
  /-- the `nat` of `setContrast`, which must lie in 0..255 -/
  | byte
  deriving DecidableEq, Repr

/-- Drop the blanks in front. -/
def trimLeft : List Char → List Char
  | [] => []
  | c :: rest => if c = ' ' then trimLeft rest else c :: rest

/-- Drop the blanks on both sides. -/
def trim (cs : List Char) : List Char := (trimLeft (trimLeft cs).reverse).reverse

/-- The parts between the occurrences of a character. -/
def splitAtChar (sep : Char) : List Char → List (List Char)
  | [] => [[]]
  | c :: rest =>
    match splitAtChar sep rest with
    | [] => [[c]]
    | part :: parts => if c = sep then [] :: part :: parts else (c :: part) :: parts

/-- The value of a decimal digit. -/
def digitValue (c : Char) : Option Nat :=
  if '0'.toNat ≤ c.toNat ∧ c.toNat ≤ '9'.toNat then some (c.toNat - '0'.toNat) else none

/-- The number that digits continue, the digits before them having the value `acc`. -/
def digitsFrom (acc : Nat) : List Char → Option Nat
  | [] => some acc
  | c :: rest =>
    match digitValue c with
    | none => none
    | some d => digitsFrom (10 * acc + d) rest

/-- `nat ::= digits` (30_encoding R80). -/
def readDigits : List Char → Option Nat
  | [] => none
  | c :: rest => digitsFrom 0 (c :: rest)

/-- `int ::= [ "-" ] digits`, in the range of `sext_16` (30_encoding R80). -/
def readIntText : List Char → Option Int
  | [] => none
  | c :: rest =>
    let z : Option Int :=
      if c = '-' then (readDigits rest).map fun n => -(n : Int) else (readDigits (c :: rest)).map fun n => (n : Int)
    z.filter fun v => decide (-32768 ≤ v ∧ v ≤ 32767)

/-- One argument of a given kind (30_encoding R80). -/
def readArgText (k : ArgKind) (cs : List Char) : Option Arg :=
  match k with
  | .transport => if cs = ['T'] then some .transport else if cs = ['n', 'o', 'n', 'e'] then some .absent else none
  | .rst => if cs = ['n', 'o', 'n', 'e'] then some .absent else (readDigits cs).map fun n => .num n
  | .bool => if cs = ['0'] then some (.num 0) else if cs = ['1'] then some (.num 1) else none
  | .int => (readIntText cs).map .num
  | .nat => (readDigits cs).map fun n => .num n
  | .byte => ((readDigits cs).filter fun n => decide (n ≤ 255)).map fun n => .num n

/-- The arguments of given kinds; none where their number differs. -/
def readArgsText : List ArgKind → List (List Char) → Option (List Arg)
  | [], [] => some []
  | k :: ks, cs :: css =>
    match readArgText k (trim cs), readArgsText ks css with
    | some a, some as => some (a :: as)
    | _, _ => none
  | [], _ :: _ => none
  | _ :: _, [] => none

/-- The operations' names, selectors and argument kinds (30_encoding R60, R80). -/
def operationTable : List (List Char × Nat × List ArgKind) :=
  [ (['b', 'e', 'g', 'i', 'n'], 0, [.transport, .nat, .nat, .nat, .rst, .bool, .bool]),
    (['c', 'l', 'e', 'a', 'r'], 1, []),
    (['s', 'e', 't', 'P', 'i', 'x', 'e', 'l'], 2, [.int, .int, .bool]),
    (['s', 'e', 't', 'E', 'n', 'a', 'b', 'l', 'e', 'd'], 3, [.bool]),
    (['s', 'e', 't', 'C', 'o', 'n', 't', 'r', 'a', 's', 't'], 4, [.byte]),
    (['s', 'e', 't', 'R', 'e', 's', 'i', 's', 't', 'o', 'r'], 5, [.nat]),
    (['s', 'e', 't', 'I', 'n', 'v', 'e', 'r', 't', 'e', 'd'], 6, [.bool]),
    (['f', 'l', 'u', 's', 'h'], 7, [.int, .int, .int, .int]),
    (['s', 'e', 't', 'O', 'r', 'i', 'e', 'n', 't', 'a', 't', 'i', 'o', 'n'], 8, [.nat]) ]

/-- The row of an operation's name. -/
def findOperation (name : List Char) : List (List Char × Nat × List ArgKind) → Option (Nat × List ArgKind)
  | [] => none
  | (n, sel, kinds) :: rest => if n = name then some (sel, kinds) else findOperation name rest

/-- The name of an operation and the text after the blank behind it. -/
def splitName : List Char → List Char × List Char
  | [] => ([], [])
  | c :: rest => if c = ' ' then ([], rest) else (c :: (splitName rest).1, (splitName rest).2)

/-- One line of a program (30_encoding R80); `flush` alone stands for the full extent (R81). -/
def transcribeLine (p : Params) (line : List Char) : Option Item :=
  let (name, text) := splitName (trim line)
  let args := trim text
  match findOperation name operationTable with
  | none => none
  | some (sel, kinds) =>
    if args = [] then
      if kinds = [] ∨ sel = 7 then some (withDefaults p (.call sel [])) else none
    else if kinds = [] then none
    else (readArgsText kinds (splitAtChar ',' args)).map (.call sel)

/-- The lines of a program, or the number of the first line outside the grammar (the first: log 18, DESIGN CHOICE). -/
def transcribeLines (p : Params) (n : Nat) : List (List Char) → Except Nat (List Item)
  | [] => .ok []
  | line :: rest =>
    match transcribeLine p line with
    | none => .error n
    | some item =>
      match transcribeLines p (n + 1) rest with
      | .error k => .error k
      | .ok items => .ok (item :: items)

/-- A program: each operation ends in a new line (30_encoding R80), so the text after the last one must be empty. Where
several lines are outside the grammar the refusal names the first of them: the spec says only "by line" (log 18,
DESIGN CHOICE). -/
def transcribe (p : Params) (text : List Char) : Except Nat (List Item) :=
  let lines := splitAtChar '\n' text
  match transcribeLines p 1 lines.dropLast with
  | .error n => .error n
  | .ok items => if lines.getLast? = some [] then .ok items else .error lines.length

end Sys2Proof.Machine
end

