-- ==== Sys2Proof/Safety.lean ====
section
/-! DEFINITION. What counts as a good state: the words the statements use. -/

namespace Sys2Proof.Machine

/-- The canonical form of both memories, every listed address inside its memory. The display RAM never reads as
cleared: no rule of 20_memory zeroes it. -/
def State.memoryOk (s : State) : Prop :=
  s.fb.wf s.par.size = true ∧ s.rx.pram.wf (s.par.panelPages * s.par.panelCols) = true ∧ s.rx.pram.draw ≠ none

/-- The three facts of 10_state R31 about a block that has begun, and the state UNINIT before that. -/
def State.booted (s : State) : Prop :=
  (s.cfg = none → s.ctl = .uninit) ∧
  (s.cfg ≠ none → s.dfc = 0 ∧ (s.ctl = .enabled ∨ s.ctl = .disabled) ∧ (s.enabled = true ↔ s.ctl = .enabled))

/-- The command bytes are legal (30_encoding R70, log 12), and the recorded configuration has pairwise distinct pins and a
zero offset (10_state R24, R30). -/
def State.cfgOk (s : State) : Prop :=
  s.par.cmd.legal = true ∧ ∀ c, s.cfg = some c → badPins c.cs c.cd c.rst = false ∧ c.hoffset = 0

/-- The receiver is what the trace makes of it (20_memory R48), as long as every event was emitted on the pins now
configured (log 8). -/
def State.rxOk (s : State) : Prop :=
  match s.cfg with
  | none => s.trace = [] ∧ s.rx = Rx.initial
  | some c => s.rx = recv s.par c s.trace

/-- A run that has not faulted (60_exceptions R146: a faulted run says nothing about the block). -/
def State.safe (s : State) : Prop := s.fault = none

/-- The block is configured as `c`, on distinct pins, and the receiver is not held in reset: a byte framed now is
delivered (20_memory R49). -/
def State.linkedOn (s : State) (c : Cfg) : Prop :=
  s.cfg = some c ∧ badPins c.cs c.cd c.rst = false ∧ ∀ pin, c.rst = some pin → lineLevel s.trace pin = .high

/-- The block is configured as `c`, on distinct pins, and its reset line is LOW: no byte is delivered
(20_memory R55, 70_reset R156). -/
def State.heldOn (s : State) (c : Cfg) : Prop :=
  s.cfg = some c ∧ badPins c.cs c.cd c.rst = false ∧ ∃ pin, c.rst = some pin ∧ lineLevel s.trace pin = .low

/-- The state after events on the pins of `c`: they are appended to the trace and the receiver takes them, and nothing
else changes. -/
def State.withEvents (s : State) (c : Cfg) (evs : List Event) : State :=
  { s with trace := s.trace ++ evs, rx := recvEvents s.par c (Lines.of c s.trace) s.rx evs }

end Sys2Proof.Machine
end

