-- ==== Sys2Proof/Certificates/Slice0/Obligations.lean ====
section
/-! DEFINITION. The statements for the provers. -/

open Sys2Proof Sys2Proof.Machine

/-! ## Encodings -/

/-- Decoding what the encoder writes gives the instruction back, every operand at every value, wherever the
instruction may stand in the output stream, for all legal command bytes (30_encoding R59 to R61, R69, R70, R82; the form
of an entry is the model's, log 2; what is legal, log 12). -/
def Obligations.DecodeInvertsEncode : Prop :=
  ∀ c : CommandBytes, c.legal = true → ∀ (i : Instr) (prev : Option (Level × Byte)), i.standsAfter c prev = true →
    decode c prev (encode c i) = .ok i

/-- What a byte of the output stream is read as is written as exactly that byte and may stand there; and no two
instructions that may stand at one place share a byte, for legal command bytes (30_encoding R82, which the spec derives
from R69 and R70; log 12). -/
def Obligations.DecodedByteEncodesBack : Prop :=
  ∀ (c : CommandBytes) (prev : Option (Level × Byte)),
    (∀ (cd : Level) (b : Byte) (i : Instr), decodeByte c prev cd b = .ok i →
      i.framedByte c = some (cd, b) ∧ encode c i = .byte cd b ∧ i.standsAfter c prev = true) ∧
    (c.legal = true → ∀ (i j : Instr) (x : Level × Byte), i.framedByte c = some x → j.framedByte c = some x →
      i.standsAfter c prev = true → j.standsAfter c prev = true → i = j)

/-- No two rows of the command table overlap, for the default command bytes and for all legal ones (30_encoding R70;
the default values are the spec's from general knowledge, log 12). -/
def Obligations.CommandRowsDoNotOverlap : Prop :=
  Config.commands.legal = true ∧
  ∀ c : CommandBytes, c.legal = true → c.patterns.Pairwise fun p q => ∀ b : Byte, (p.fits b && q.fits b) = false

/-- Words written out from 30_encoding R60, R70 and 95_test_vectors section 3 decode to what they stand for, the command
bytes at their defaults (log 12, PRESUMED). That the byte A5 is refused is the model's reading (log 19, DEDUCED): R79
says that the block never sends it, not that it is illegal. -/
def Obligations.SpecWordsDecode : Prop :=
  decode Config.commands none (.call 0 [.transport, .num 4000000, .num 10, .num 9, .num 8, .num 0, .num 0])
      = .ok (.beginOp true 4000000 10 9 (some 8) false false) ∧
  decode Config.commands none (.call 2 [.num (-1), .num 0, .num 1]) = .ok (.setPixel 0xFFFF 0 true) ∧
  decode Config.commands none (.call 7 [.num 0, .num 8, .num 15, .num 15]) = .ok (.flush 0 8 15 15) ∧
  decode Config.commands none (.prim .low 0xAF) = .ok (.sendCommand 0xAF) ∧
  decode Config.commands none (.byte .low 0b00010011) = .ok (.cmdColMsb 3) ∧
  decode Config.commands none (.byte .low 0b10110111) = .ok (.cmdPage 7) ∧
  decode Config.commands none (.byte .low 0b11001000) = .ok (.cmdCom true) ∧
  decode Config.commands (some (.low, 0x81)) (.byte .high 0b00000110) = .ok (.evValue 6) ∧
  decode Config.commands none (.byte .low 0xA5) = .error (.noSuchCommand 0xA5)

/-- A host call is read as one of the nine host operations, never as a primitive or a controller byte
(30_encoding R60). -/
def Obligations.HostCallsAreHostOperations : Prop :=
  ∀ (c : CommandBytes) (prev : Option (Level × Byte)) (selector : Nat) (args : List Arg) (i : Instr),
    decode c prev (.call selector args) = .ok i → i.isHostOp = true ∧ selector ≤ 8

/-! ## Steps -/

/-- When the next entry of the input decodes to an instruction, the step is that instruction run in the state with the
entry used up (00_scope R6, 10_state R33; the input queue is the model's own, log 1). -/
def Obligations.StepRunsTheDecodedInstruction : Prop :=
  ∀ (s : State) (item : Item) (rest : List Item) (i : Instr), s.fault = none → s.input = item :: rest →
    decode s.par.cmd s.lastByte (withDefaults s.par item) = .ok i → step s = exec i { s with input := rest }

/-- With nothing called the block waits unchanged (70_reset R147), and an entry that is no instruction is refused by
name (30_encoding R80; the input queue is the model's own, log 1). -/
def Obligations.StepWaitsOrRefuses : Prop :=
  (∀ s : State, s.fault = none → s.input = [] → step s = .next s) ∧
  (∀ (s : State) (item : Item) (rest : List Item) (why : Reject), s.fault = none → s.input = item :: rest →
    decode s.par.cmd s.lastByte (withDefaults s.par item) = .error why → step s = .refused (.undecodable why))

/-- `flush` with no arguments runs as `flush 0, 0, W-1, H-1` (30_encoding R81). -/
def Obligations.FlushDefaultsToFullExtent : Prop :=
  ∀ (s : State) (rest : List Item), s.fault = none → s.input = .call 7 [] :: rest →
    step s = exec (.flush 0 0 (BitVec.ofNat 16 (s.par.width - 1)) (BitVec.ofNat 16 (s.par.height - 1)))
      { s with input := rest }

/-- No instruction is refused, and the only thing that stops one is the sticky fault mark (10_state R28,
60_exceptions R130; the mark is the spec's decision D31); the step of a faulted block stops in the same way. -/
def Obligations.OnlyTheFaultMarkStops : Prop :=
  (∀ (i : Instr) (s : State) (why : Refusal), exec i s ≠ .refused why) ∧
  (∀ (i : Instr) (s : State) (code : FaultCode), s.fault = some code → exec i s = .fault (.stopped code)) ∧
  (∀ (s : State) (code : FaultCode), s.fault = some code → step s = .fault (.stopped code)) ∧
  (∀ (i : Instr) (s : State), s.fault = none → ∃ t, exec i s = .next t)

/-- An operation that faults leaves everything exactly as it was and sets only the mark (60_exceptions R130,
the spec's decision D31). -/
def Obligations.FaultSetsOnlyTheMark : Prop :=
  ∀ (i : Instr) (s t : State) (code : FaultCode), exec i s = .next t → t.fault = some code →
    t = { s with fault := some code }

/-- No operation raises `BAD_INDEX`: every framebuffer index a rule computes lies in range (20_memory R37). -/
def Obligations.NoInstructionRaisesBadIndex : Prop :=
  ∀ (i : Instr) (s t : State), exec i s = .next t → t.fault ≠ some .badIndex

/-! ## The protocol layer -/

/-- `sendCommand(b)` appends the six events of 40_protocol R83, in that order, and writes nothing else of the block;
without a transport it raises `NO_TRANSPORT` before any event (40_protocol R86, the spec's decision D14). That the
receiver takes the events as they are emitted is log 8. -/
def Obligations.SendCommandEmitsLowFrame : Prop :=
  (∀ (b : Byte) (s : State) (c : Cfg), s.fault = none → s.cfg = some c →
    exec (.sendCommand b) s = .next (s.withEvents c
      [.pinLevel c.cd .low, .beginTx c.clock s.par.spiMode, .pinLevel c.cs .low, .xfer b, .pinLevel c.cs .high,
        .endTx])) ∧
  (∀ (b : Byte) (s : State), s.fault = none → s.cfg = none →
    exec (.sendCommand b) s = .next { s with fault := some .noTransport })

/-- `sendData(b)` is identical but drives the command/data line HIGH first (40_protocol R84); without a transport
it raises `NO_TRANSPORT` (R86, the spec's decision D14). That the receiver takes the events as they are emitted is
log 8. -/
def Obligations.SendDataEmitsHighFrame : Prop :=
  (∀ (b : Byte) (s : State) (c : Cfg), s.fault = none → s.cfg = some c →
    exec (.sendData b) s = .next (s.withEvents c
      [.pinLevel c.cd .high, .beginTx c.clock s.par.spiMode, .pinLevel c.cs .low, .xfer b, .pinLevel c.cs .high,
        .endTx])) ∧
  (∀ (b : Byte) (s : State), s.fault = none → s.cfg = none →
    exec (.sendData b) s = .next { s with fault := some .noTransport })

/-- After either primitive chip-select is idle (HIGH) and the command/data line is LOW after `sendCommand` and HIGH after
`sendData` (40_protocol R88), for distinct pins. -/
def Obligations.LinesAfterAFrame : Prop :=
  ∀ (b : Byte) (s t : State) (c : Cfg), s.cfg = some c → c.cs ≠ c.cd →
    (exec (.sendCommand b) s = .next t → lineLevel t.trace c.cs = .high ∧ lineLevel t.trace c.cd = .low) ∧
    (exec (.sendData b) s = .next t → lineLevel t.trace c.cs = .high ∧ lineLevel t.trace c.cd = .high)

/-- Each command byte, value byte and display data byte, run as an instruction, is sent in its own frame and writes
nothing else of the block (30_encoding R65, R67, R69); this covers all 18 of them. -/
def Obligations.FramedBytesAreSentInTheirFrame : Prop :=
  ∀ (i : Instr) (cd : Level) (b : Byte) (s : State) (c : Cfg), i.framedByte s.par.cmd = some (cd, b) → s.fault = none →
    s.cfg = some c →
    exec i s = .next (s.withEvents c
      [.pinLevel c.cd cd, .beginTx c.clock s.par.spiMode, .pinLevel c.cs .low, .xfer b, .pinLevel c.cs .high,
        .endTx])

/-- Every bus operation that has passed its own checks raises `NO_TRANSPORT` before a successful `begin` and does nothing
else: each byte row, `sendCommand`, `sendData`, `setEnabled`, `setContrast` and `setInverted` in any case, `setResistor`
with a value up to 7, and `flush` with a zero counter, a page range that is not empty and columns inside the buffer
(40_protocol R86, 60_exceptions R134; the spec's decisions D14, D19, D35). A flush or a `setResistor` that fails its
own check does otherwise: FlushChecksInOrder, SetResistorSendsOrFaults. -/
def Obligations.BusOperationsNeedATransport : Prop :=
  (∀ (i : Instr) (s : State), s.fault = none → s.cfg = none →
    ((∃ x, i.framedByte s.par.cmd = some x) ∨ (∃ b, i = .sendCommand b) ∨ (∃ b, i = .sendData b) ∨
      (∃ on, i = .setEnabled on) ∨ (∃ v, i = .setContrast v) ∨ (∃ on, i = .setInverted on) ∨
      (∃ v, i = .setResistor v ∧ v ≤ 7)) →
    exec i s = .next { s with fault := some .noTransport }) ∧
  (∀ (x0 y0 x1 y1 : BitVec 16) (s : State), s.fault = none → s.cfg = none → s.dfc = 0 →
    max y0.toInt 0 / 8 ≤ min y1.toInt ((s.par.height : Int) - 1) / 8 →
    0 ≤ x0.toInt → x0.toInt ≤ (s.par.width : Int) - 1 → (x0.toInt ≤ x1.toInt → x1.toInt ≤ (s.par.width : Int) - 1) →
    exec (.flush x0 y0 x1 y1) s = .next { s with fault := some .noTransport })

/-! ## The receiving controller -/

/-- The column commands set the high and the low nibble of the receiver's column pointer and touch nothing else of it,
so the pair lands the pointer on the column (20_memory R50; the spec takes the byte values and the split from general
knowledge; which command bytes are legal is log 12). A pointer beyond 255 keeps nothing above bit 7 when its high nibble
is set; that reading is the model's (log 10). The receiver is the spec's decision D26. -/
def Obligations.ColumnCommandsSetThePointer : Prop :=
  (∀ (h : BitVec 4) (s : State) (c : Cfg), s.fault = none → s.linkedOn c → s.par.cmd.legal = true →
    ∃ t, exec (.cmdColMsb h) s = .next t ∧ t.rx.col = 16 * h.toNat + s.rx.col % 16 ∧ t.rx.page = s.rx.page ∧
      t.rx.pram = s.rx.pram) ∧
  (∀ (l : BitVec 4) (s : State) (c : Cfg), s.fault = none → s.linkedOn c → s.par.cmd.legal = true →
    ∃ t, exec (.cmdColLsb l) s = .next t ∧ t.rx.col = 16 * (s.rx.col / 16) + l.toNat ∧ t.rx.page = s.rx.page ∧
      t.rx.pram = s.rx.pram) ∧
  (∀ (v : Byte) (s : State) (c : Cfg), s.fault = none → s.linkedOn c → s.par.cmd.legal = true →
    ∃ t u, exec (.cmdColMsb (v.extractLsb' 4 4)) s = .next t ∧ exec (.cmdColLsb (v.extractLsb' 0 4)) t = .next u ∧
      u.rx.col = v.toNat)

/-- The page command sets the receiver's page pointer and touches nothing else of it (20_memory R51; the byte value
is the spec's from general knowledge; which command bytes are legal is log 12; the receiver is the spec's decision
D26). -/
def Obligations.PageCommandSetsThePage : Prop :=
  ∀ (p : BitVec 4) (s : State) (c : Cfg), s.fault = none → s.linkedOn c → s.par.cmd.legal = true →
    ∃ t, exec (.cmdPage p) s = .next t ∧ t.rx.page = p.toNat ∧ t.rx.col = s.rx.col ∧ t.rx.pram = s.rx.pram

/-- Every other command byte leaves the display RAM unchanged, but for system reset, which makes every byte of it a free
value; the pointers become free values after each, for legal command bytes (20_memory R54, the spec's decision D26; which
are legal, log 12; the number a draw takes, log 10). -/
def Obligations.OtherCommandsLosePointersAndSystemResetTheRam : Prop :=
  ∀ (i : Instr) (s : State) (c : Cfg), s.fault = none → s.linkedOn c → s.par.cmd.legal = true →
    i.isCommandByte = true →
    (∀ l, i ≠ .cmdColLsb l) → (∀ h, i ≠ .cmdColMsb h) → (∀ p, i ≠ .cmdPage p) →
    ∃ t, exec i s = .next t ∧ t.rx.col = Config.freeCol s.rx.draws ∧ t.rx.page = Config.freePage s.rx.draws ∧
      (i ≠ .cmdSysreset → t.rx.pram = s.rx.pram) ∧
      (i = .cmdSysreset → ∀ a, t.rx.pram.read a = Config.freeByte s.rx.draws a)

/-- A display data byte that is no argument byte is written at the receiver's pointers and the column pointer steps on;
at the last column it becomes a free value, and outside the display RAM every byte and the column do
(20_memory R52). The source gives the write and the increment; the free values are the spec's decision D26 (R48: its
conservative reading). The number a draw takes is log 10 (DESIGN CHOICE), the address of a display RAM byte log 20
(DEDUCED), the wait for an argument byte log 11 (DEDUCED). -/
def Obligations.DataByteWritesDisplayRam : Prop :=
  ∀ (d : Byte) (s : State) (c : Cfg), s.fault = none → s.linkedOn c → s.rx.argNext = false →
    ∃ t, exec (.displayData d) s = .next t ∧ t.rx.page = s.rx.page ∧
      (s.rx.col < s.par.panelCols → s.rx.page < s.par.panelPages →
        (∀ a, t.rx.pram.read a =
          if a = s.rx.page * s.par.panelCols + s.rx.col then d else s.rx.pram.read a) ∧
        t.rx.col = if s.rx.col + 1 < s.par.panelCols then s.rx.col + 1 else Config.freeCol s.rx.draws) ∧
      (¬(s.rx.col < s.par.panelCols ∧ s.rx.page < s.par.panelPages) →
        (∀ a, t.rx.pram.read a = Config.freeByte s.rx.draws a) ∧ t.rx.col = Config.freeCol s.rx.draws)

/-- The data byte that follows the command `0x81` or `CMD_APC` (by default `0xFA`) is an argument: it writes no display
RAM byte but the one under the pointers, which becomes a free value if it is in range; the column becomes a free value
and the page stays (20_memory R53, the spec's decision D26). Only those two commands make the next byte an argument. The
receiver's memory of it is log 11 (DEDUCED), the value of `CMD_APC` log 12, the number a draw takes log 10, the address
of a display RAM byte log 20. -/
def Obligations.ArgumentByteIsNotStoredAsData : Prop :=
  (∀ (i : Instr) (b : Byte) (s : State) (c : Cfg), s.fault = none → s.linkedOn c →
    i.framedByte s.par.cmd = some (.high, b) →
    s.rx.argNext = true →
    ∃ t, exec i s = .next t ∧ t.rx.page = s.rx.page ∧ t.rx.col = Config.freeCol s.rx.draws ∧
      t.rx.argNext = false ∧
      ∀ a, t.rx.pram.read a =
        if a = s.rx.page * s.par.panelCols + s.rx.col ∧ s.rx.col < s.par.panelCols ∧ s.rx.page < s.par.panelPages
        then Config.freeByte s.rx.draws a else s.rx.pram.read a) ∧
  (∀ (i : Instr) (b : Byte) (s : State) (c : Cfg), s.fault = none → s.linkedOn c →
    i.framedByte s.par.cmd = some (.low, b) →
    ∃ t, exec i s = .next t ∧ (t.rx.argNext = true ↔ b = 0x81 ∨ b = s.par.cmd.apc))

/-- While the reset line is LOW no byte reaches the receiver, though the block sends it: for each byte row,
`sendCommand`, `sendData`, `setInverted`, `setResistor` with a value up to 7, `setContrast`, and a flush of `n` pages and
`w` columns that passes its checks, the receiver is as it was while the events are appended (20_memory R49, R55, the
spec's decision D26; 70_reset R156, which the spec derives from them). -/
def Obligations.NothingIsDeliveredWhileInReset : Prop :=
  (∀ (i : Instr) (s : State) (c : Cfg), s.fault = none → s.heldOn c →
    ((∃ x, i.framedByte s.par.cmd = some x) ∨ (∃ b, i = .sendCommand b) ∨ (∃ b, i = .sendData b) ∨
      (∃ on, i = .setInverted on) ∨ (∃ v, i = .setResistor v ∧ v ≤ 7)) →
    ∃ t, exec i s = .next t ∧ t.rx = s.rx ∧ t.trace.length = s.trace.length + 6) ∧
  (∀ (v : Byte) (s : State) (c : Cfg), s.fault = none → s.heldOn c →
    ∃ t, exec (.setContrast v) s = .next t ∧ t.rx = s.rx ∧ t.trace.length = s.trace.length + 12) ∧
  (∀ (x0 y0 x1 y1 : BitVec 16) (s : State) (c : Cfg) (n w : Nat), s.fault = none → s.heldOn c → s.dfc = 0 →
    (n : Int) = min y1.toInt ((s.par.height : Int) - 1) / 8 - max y0.toInt 0 / 8 + 1 → 1 ≤ n →
    (w : Int) = max 0 (x1.toInt - x0.toInt + 1) →
    0 ≤ x0.toInt → x0.toInt ≤ (s.par.width : Int) - 1 → (x0.toInt ≤ x1.toInt → x1.toInt ≤ (s.par.width : Int) - 1) →
    ∃ t, exec (.flush x0 y0 x1 y1) s = .next t ∧ t.rx = s.rx ∧
      t.trace.length = s.trace.length + 6 * n * (3 + w))

/-! ## The framebuffer -/

/-- `setPixel` writes the one pixel its coordinate maps to, set only while the enabled flag is true and cleared always,
and nothing where a bounds check fails; every other pixel, every other field and every byte outside the buffer stay
as they were (41_framebuffer R94 with R89 to R93). -/
def Obligations.SetPixelWritesItsPixelOnly : Prop :=
  ∀ (x y : BitVec 16) (color : Bool) (s : State), s.fault = none →
    ∃ t, exec (.setPixel x y color) s = .next t ∧ t = { s with fb := t.fb } ∧
      (∀ q : Int × Int, inPhysical s.par q = true →
        t.pixel q =
          if inLogical s.par s.orient x.toInt y.toInt = true ∧ transform s.par s.orient x.toInt y.toInt = q
          then (if color = true then s.pixel q || s.enabled else false) else s.pixel q) ∧
      (∀ j, s.par.size ≤ j → t.fb.read j = s.fb.read j)

/-- The read-back law (41_framebuffer R101). -/
def Obligations.SetPixelReadsBack : Prop :=
  ∀ (x y : BitVec 16) (color : Bool) (s : State), s.fault = none →
    inLogical s.par s.orient x.toInt y.toInt = true →
    inPhysical s.par (transform s.par s.orient x.toInt y.toInt) = true →
    ∃ t, exec (.setPixel x y color) s = .next t ∧
      ((color = false ∨ s.enabled = true) → t.pixel (transform s.par s.orient x.toInt y.toInt) = color) ∧
      (color = true → s.enabled = false →
        t.pixel (transform s.par s.orient x.toInt y.toInt) = s.pixel (transform s.par s.orient x.toInt y.toInt))

/-- Setting the same pixel again changes no byte of the buffer (20_memory R43). -/
def Obligations.SetPixelIsIdempotent : Prop :=
  ∀ (x y : BitVec 16) (color : Bool) (s t u : State), exec (.setPixel x y color) s = .next t →
    exec (.setPixel x y color) t = .next u → ∀ j, u.fb.read j = t.fb.read j

/-- Which coordinates inside the logical bounds write, and which physical pixels they reach, for each orientation
(41_framebuffer R95): the 90 and 270 degree mappings lose the rest. -/
def Obligations.ReachableRegions : Prop :=
  ∀ (p : Params) (r : Orient),
    (∀ x y : Int, inLogical p r x y = true →
      (pixelTarget p r x y ≠ none ↔
        match r with
        | .deg0 | .deg180 => True
        | .deg90 => max 0 ((p.height : Int) - p.width) ≤ y ∧ y ≤ min (p.width : Int) p.height - 1
        | .deg270 => max 0 ((p.width : Int) - p.height) ≤ x ∧ x ≤ min (p.width : Int) p.height - 1)) ∧
    (∀ q : Int × Int, inPhysical p q = true →
      ((∃ x y : Int, inLogical p r x y = true ∧ transform p r x y = q) ↔
        match r with
        | .deg0 | .deg180 => True
        | .deg90 => (p.height : Int) - min (p.width : Int) p.height ≤ q.1 ∧ q.1 ≤ min (p.width : Int) p.height - 1
        | .deg270 => (p.width : Int) - min (p.width : Int) p.height ≤ q.2 ∧ q.2 ≤ min (p.width : Int) p.height - 1))

/-- `pixaddr` is a bijection between the physical pixels and the (index, bit) pairs of the buffer, in the ranges
20_memory R39 gives, and a pixel is that bit of that byte. -/
def Obligations.PixaddrIsABijection : Prop :=
  ∀ p : Params,
    (∀ q : Int × Int, inPhysical p q = true →
      (pixaddr p q).1 = q.1 + q.2 / 8 * (p.width : Int) ∧ 0 ≤ (pixaddr p q).1 ∧
        (pixaddr p q).1 < (p.width * p.pages : Nat) ∧ ((pixaddr p q).2 : Int) = q.2 % 8) ∧
    (∀ (index : Int) (bit : Nat), 0 ≤ index → index < (p.width * p.pages : Nat) → bit < 8 →
      ∃! q : Int × Int, inPhysical p q = true ∧ pixaddr p q = (index, bit)) ∧
    (∀ (s : State) (q : Int × Int), s.par = p → inPhysical p q = true →
      s.pixel q = (s.fb.read (q.1 + q.2 / 8 * (p.width : Int)).toNat).getLsbD (q.2 % 8).toNat)

/-- `setOrientation(r)` writes the orientation and nothing else for `r` in 0..3, and raises `BAD_ARGUMENT` above
(41_framebuffer R96; that fault is the spec's decision D16). -/
def Obligations.SetOrientationWritesOrFaults : Prop :=
  ∀ (r : Nat) (s : State), s.fault = none →
    (r ≤ 3 → ∃ o, orientNumber o = r ∧ exec (.setOrientation r) s = .next { s with orient := o }) ∧
    (3 < r → exec (.setOrientation r) s = .next { s with fault := some .badArgument })

/-- `clear()` zeroes every byte of the framebuffer and the deferred-flush counter, emits nothing and writes nothing else
(41_framebuffer R97), in every controller state. That it emits nothing is the spec's decision D20
(R98, log 13). -/
def Obligations.ClearZeroesTheBuffer : Prop :=
  ∀ s : State, s.fault = none →
    ∃ t, exec .clear s = .next t ∧ t = { s with fb := t.fb, dfc := 0 } ∧ ∀ j, t.fb.read j = 0

/-! ## Flush -/

/-- The bytes of one page of a flush, written out from 42_flush R106 and 30_encoding R71, R73: `CMD_COL_MSB` with the
column's high nibble, `CMD_COL_LSB` with its low nibble, `CMD_PAGE` with the page, then the framebuffer bytes of the
columns in order. -/
def Sys2Proof.Machine.expectedPage (s : State) (x0 x1 : Int) (p : Nat) : List (Level × Byte) :=
  [(.low, s.par.cmd.colMsb ||| BitVec.ofNat 8 (x0.toNat / 16)),
    (.low, s.par.cmd.colLsb ||| BitVec.ofNat 8 (x0.toNat % 16)), (.low, s.par.cmd.page ||| BitVec.ofNat 8 p)]
  ++ (List.range (x1 - x0 + 1).toNat).map fun k => (.high, s.fb.read (x0.toNat + k + p * s.par.width))

/-- The bytes of a whole flush: its pages in increasing order (42_flush R106). -/
def Sys2Proof.Machine.expectedFlush (s : State) (x0 y0 x1 y1 : Int) : List (Level × Byte) :=
  (List.range (min y1 ((s.par.height : Int) - 1) / 8 - max y0 0 / 8 + 1).toNat).flatMap fun n =>
    expectedPage s x0 x1 ((max y0 0 / 8).toNat + n)

/-- A flush with a non-zero deferred-flush counter returns at once, before any other check: no event, no fault, no
change (42_flush R103). -/
def Obligations.FlushIsIgnoredWhileDeferred : Prop :=
  ∀ (x0 y0 x1 y1 : BitVec 16) (s : State), s.fault = none → s.dfc ≠ 0 → exec (.flush x0 y0 x1 y1) s = .next s

/-- The page range of a flush: the rows clamped to the buffer and divided by eight toward minus infinity, so that
`y1 = -1` gives page -1 and an empty range; a range that is not empty lies inside the buffer (42_flush R104). -/
def Obligations.PageRangeIsFloored : Prop :=
  ∀ (p : Params) (y0 y1 : Int),
    (8 * firstPage y0 ≤ max y0 0 ∧ max y0 0 < 8 * firstPage y0 + 8) ∧
    (8 * lastPage p y1 ≤ min y1 ((p.height : Int) - 1) ∧ min y1 ((p.height : Int) - 1) < 8 * lastPage p y1 + 8) ∧
    (lastPage p (-1) = -1 ∧ lastPage p (-1) < firstPage y0) ∧
    (firstPage y0 ≤ lastPage p y1 → 0 ≤ firstPage y0 ∧ lastPage p y1 ≤ (p.pages : Int) - 1)

/-- A flush that passes its checks sends, for each page from the first to the last, the column pair, the page and the
bytes of its columns, each in a frame of its own, and writes nothing else of the block (42_flush R102, R104, R106; the
order of the two column commands is the spec's decision D36; the command bytes and the places of their fields are
log 12). The zero offset is the invariant of StepKeepsTheConfigurationLegal. -/
def Obligations.FlushSendsItsPages : Prop :=
  ∀ (x0 y0 x1 y1 : BitVec 16) (s : State) (c : Cfg), s.fault = none → s.cfg = some c → c.hoffset = 0 → s.dfc = 0 →
    max y0.toInt 0 / 8 ≤ min y1.toInt ((s.par.height : Int) - 1) / 8 →
    0 ≤ x0.toInt → x0.toInt ≤ (s.par.width : Int) - 1 → (x0.toInt ≤ x1.toInt → x1.toInt ≤ (s.par.width : Int) - 1) →
    exec (.flush x0 y0 x1 y1) s = .next (s.withEvents c
      (frames s.par.spiMode c (expectedFlush s x0.toInt y0.toInt x1.toInt y1.toInt)))

/-- When a flush does nothing and when it faults, in the order of 60_exceptions R134: a non-zero counter, an empty page
range (floor division, so `y1 = -1` is empty), a column outside the buffer, no transport (42_flush R103 to R105; the
two faults and their order are the spec's decisions D19, D14, D35). -/
def Obligations.FlushChecksInOrder : Prop :=
  ∀ (x0 y0 x1 y1 : BitVec 16) (s : State), s.fault = none →
    (s.dfc ≠ 0 → exec (.flush x0 y0 x1 y1) s = .next s) ∧
    (s.dfc = 0 → max y0.toInt 0 / 8 > min y1.toInt ((s.par.height : Int) - 1) / 8 →
      exec (.flush x0 y0 x1 y1) s = .next s) ∧
    (s.dfc = 0 → max y0.toInt 0 / 8 ≤ min y1.toInt ((s.par.height : Int) - 1) / 8 →
      (x0.toInt < 0 ∨ (s.par.width : Int) - 1 < x0.toInt ∨
        (x0.toInt ≤ x1.toInt ∧ (s.par.width : Int) - 1 < x1.toInt)) →
      exec (.flush x0 y0 x1 y1) s = .next { s with fault := some .flushColumnRange }) ∧
    (s.dfc = 0 → max y0.toInt 0 / 8 ≤ min y1.toInt ((s.par.height : Int) - 1) / 8 → s.cfg = none →
      0 ≤ x0.toInt → x0.toInt ≤ (s.par.width : Int) - 1 →
      (x0.toInt ≤ x1.toInt → x1.toInt ≤ (s.par.width : Int) - 1) →
      exec (.flush x0 y0 x1 y1) s = .next { s with fault := some .noTransport })

/-- A flush of `n` pages and `w` columns sends `3n` command bytes and `n*w` data bytes in `6n(3 + w)` events
(42_flush R107). -/
def Obligations.FlushCountsItsBytes : Prop :=
  ∀ (x0 y0 x1 y1 : BitVec 16) (s t : State) (c : Cfg) (n w : Nat), s.fault = none → s.cfg = some c →
    c.cs ≠ c.cd → s.dfc = 0 →
    (n : Int) = min y1.toInt ((s.par.height : Int) - 1) / 8 - max y0.toInt 0 / 8 + 1 → 1 ≤ n →
    (w : Int) = max 0 (x1.toInt - x0.toInt + 1) →
    0 ≤ x0.toInt → x0.toInt ≤ (s.par.width : Int) - 1 → (x0.toInt ≤ x1.toInt → x1.toInt ≤ (s.par.width : Int) - 1) →
    exec (.flush x0 y0 x1 y1) s = .next t →
    ∃ evs, t.trace = s.trace ++ evs ∧ evs.length = 6 * n * (3 + w) ∧
      ((bytesOf c.cd evs).filter fun x => x.1 == .low).length = 3 * n ∧
      ((bytesOf c.cd evs).filter fun x => x.1 == .high).length = n * w

/-- A flush reads the counter, the configuration and the framebuffer only: two blocks that agree on those (and on the
parameters and the history) flush alike, whatever their enabled flag, controller state and orientation
(42_flush R108). -/
def Obligations.FlushIgnoresFlagStateAndOrientation : Prop :=
  ∀ (x0 y0 x1 y1 : BitVec 16) (s t : State) (e : Bool) (k : Ctl) (o : Orient),
    exec (.flush x0 y0 x1 y1) s = .next t →
    exec (.flush x0 y0 x1 y1) { s with enabled := e, ctl := k, orient := o } =
      .next { t with enabled := e, ctl := k, orient := o }

/-- What a flush delivers: when it returns, the display RAM holds the framebuffer bytes of its box at the same page and
column, and every other byte of the display RAM is as it was, whatever the receiver's pointers were (20_memory R56);
for a block whose bytes are delivered at all (R49, R55). The receiver is the spec's decision D26; its commands, and
which command bytes are legal, are log 12. -/
def Obligations.FlushDeliversTheBufferToThePanel : Prop :=
  ∀ (x0 y0 x1 y1 : BitVec 16) (s : State) (c : Cfg), s.fault = none → s.linkedOn c → s.par.cmd.legal = true →
    c.hoffset = 0 → s.dfc = 0 →
    max y0.toInt 0 / 8 ≤ min y1.toInt ((s.par.height : Int) - 1) / 8 →
    0 ≤ x0.toInt → x0.toInt ≤ (s.par.width : Int) - 1 → (x0.toInt ≤ x1.toInt → x1.toInt ≤ (s.par.width : Int) - 1) →
    ∃ t, exec (.flush x0 y0 x1 y1) s = .next t ∧
      ∀ p x : Nat, p < s.par.panelPages → x < s.par.panelCols →
        t.rx.pramByte s.par p x =
          if max y0.toInt 0 / 8 ≤ (p : Int) ∧ (p : Int) ≤ min y1.toInt ((s.par.height : Int) - 1) / 8 ∧
            x0.toInt ≤ (x : Int) ∧ (x : Int) ≤ x1.toInt
          then s.fb.read (x + p * s.par.width) else s.rx.pramByte s.par p x

/-! ## The controller -/

/-- The reset pulse, where a reset pin is configured (43_controller R115). -/
def Sys2Proof.Machine.expectedPulse : Option Nat → List Event
  | none => []
  | some r => [.pinMode r, .pinLevel r .low, .delay 1, .pinLevel r .high, .delay 1]

/-- The second cooldown, where it stands after item `k` (43_controller R117). -/
def Sys2Proof.Machine.expectedCooldown (p : Params) (k : Nat) : List Event :=
  if p.cooldown2.val = k then [.delay 10] else []

/-- The bytes of item `k` and the second cooldown behind it. -/
def Sys2Proof.Machine.expectedItem (p : Params) (c : Cfg) (k : Nat) (bs : List (Level × Byte)) : List Event :=
  frames p.spiMode c bs ++ expectedCooldown p k

/-- The events of init, written out item by item from 43_controller R113 to R118. -/
def Sys2Proof.Machine.expectedInit (p : Params) (c : Cfg) : List Event :=
  [.pinMode c.cs, .pinMode c.cd, .pinLevel c.cs .high, .pinLevel c.cd .low]
  ++ expectedPulse c.rst
  ++ expectedCooldown p 0
  ++ expectedItem p c 1 [(.low, p.cmd.sysreset)]
  ++ expectedItem p c 2 [(.low, p.cmd.display)]
  ++ expectedItem p c 3 [(.low, p.cmd.scroll)]
  ++ expectedItem p c 4 [(.low, p.cmd.seg ||| if c.xflip = true then 1 else 0)]
  ++ expectedItem p c 5 [(.low, p.cmd.com ||| if c.yflip = true then 8 else 0)]
  ++ expectedItem p c 6 [(.low, p.cmd.allpix)]
  ++ expectedItem p c 7 [(.low, p.cmd.inverse)]
  ++ expectedItem p c 8 [(.low, p.cmd.bias ||| if p.bias = true then 1 else 0)]
  ++ frames p.spiMode c [(.low, p.cmd.power ||| 7)] ++ [.delay 10] ++ expectedCooldown p 9
  ++ expectedItem p c 10 [(.low, p.cmd.resistor ||| BitVec.ofNat 8 p.initResistor.toNat)]
  ++ expectedItem p c 11 [(.low, 0x81), (.high, BitVec.ofNat 8 p.initContrast.toNat)]
  ++ expectedItem p c 12 [(.low, p.cmd.apc), (.high, p.apcValue)]
  ++ expectedItem p c 13 [(.low, p.cmd.allpix)]
  ++ expectedItem p c 14 [(.low, p.cmd.display ||| 1)]

/-- `begin` with a transport and distinct pins records the configuration with a zero offset and runs init: exactly its
events in its order, for every value of the open parameters; then the buffer is zero, the counter 0, the flag true and
the state ENABLED; the orientation, the diagnostics and all else stay (43_controller R110, R111, R113 to R118;
70_reset R149). The place of the second cooldown, the reset pin's mode, the SEG and COM
polarity, the data framing of the two value bytes and the order of the events are the spec's decisions D10, D12, D7, D8
and D36 (log 13); the command bytes are log 12, the receiver on new pins log 8. -/
def Obligations.BeginBootsTheBlock : Prop :=
  ∀ (clk cs cd : Nat) (rst : Option Nat) (xf yf : Bool) (s : State) (c : Cfg), s.fault = none →
    cs ≠ cd → rst ≠ some cs → rst ≠ some cd → c = ⟨clk, cs, cd, rst, xf, yf, 0⟩ →
    ∃ t, exec (.beginOp true clk cs cd rst xf yf) s = .next t ∧
      t = { s.withEvents c (expectedInit s.par c) with
            cfg := some c, fb := t.fb, dfc := 0, enabled := true, ctl := .enabled } ∧
      ∀ j, t.fb.read j = 0

/-- A successful `begin` appends exactly 107 events with a reset pin and 102 without, sends the 16 bytes of
43_controller R119 (which the spec derives), and leaves chip-select HIGH, the command/data line LOW and the reset line,
if any, HIGH. The command bytes are log 12, the SEG and COM polarity D7 and the data framing D8 (log 13). -/
def Obligations.InitCountsBytesAndLines : Prop :=
  ∀ (clk cs cd : Nat) (rst : Option Nat) (xf yf : Bool) (s t : State), s.fault = none →
    cs ≠ cd → rst ≠ some cs → rst ≠ some cd → exec (.beginOp true clk cs cd rst xf yf) s = .next t →
    ∃ evs, t.trace = s.trace ++ evs ∧ evs.length = (if rst = none then 102 else 107) ∧
      bytesOf cd evs =
        [(.low, s.par.cmd.sysreset), (.low, s.par.cmd.display), (.low, s.par.cmd.scroll),
          (.low, s.par.cmd.seg ||| if xf = true then 1 else 0), (.low, s.par.cmd.com ||| if yf = true then 8 else 0),
          (.low, s.par.cmd.allpix), (.low, s.par.cmd.inverse),
          (.low, s.par.cmd.bias ||| if s.par.bias = true then 1 else 0), (.low, s.par.cmd.power ||| 7),
          (.low, s.par.cmd.resistor ||| s.par.initResistor.setWidth 8), (.low, 0x81),
          (.high, s.par.initContrast.setWidth 8), (.low, s.par.cmd.apc), (.high, s.par.apcValue),
          (.low, s.par.cmd.allpix), (.low, s.par.cmd.display ||| 1)] ∧
      lineLevel t.trace cs = .high ∧ lineLevel t.trace cd = .low ∧
      ∀ pin, rst = some pin → lineLevel t.trace pin = .high

/-- `begin` without a transport: from UNINIT the code is appended to the diagnostics and nothing else changes; from any
other state `REBEGIN_NO_TRANSPORT` is raised (43_controller R112, the spec's decision D15). -/
def Obligations.BeginWithoutTransport : Prop :=
  ∀ (clk cs cd : Nat) (rst : Option Nat) (xf yf : Bool) (s : State), s.fault = none →
    (s.ctl = .uninit → exec (.beginOp false clk cs cd rst xf yf) s = .next { s with diag := s.diag ++ [.cfgNoTransport] }) ∧
    (s.ctl ≠ .uninit → exec (.beginOp false clk cs cd rst xf yf) s =
      .next { s with fault := some .rebeginNoTransport })

/-- `begin` with aliased pins raises `BAD_PIN_CONFIG` and does nothing else (43_controller R110, 60_exceptions R131; the
spec's decision D21). -/
def Obligations.BeginRefusesAliasedPins : Prop :=
  ∀ (clk cs cd : Nat) (rst : Option Nat) (xf yf : Bool) (s : State), s.fault = none →
    (cs = cd ∨ rst = some cs ∨ rst = some cd) →
    exec (.beginOp true clk cs cd rst xf yf) s = .next { s with fault := some .badPinConfig }

/-- `setEnabled(false)`: power-control-off, 10 ms, display-off, the reset line LOW if there is one, chip-select and
command/data LOW, 1 ms; then the flag is false and the state DISABLED. Nothing else of the block changes, the buffer in
particular; without a transport it raises `NO_TRANSPORT` (43_controller R120; that fault is the spec's decision D14, the
command bytes are log 12). -/
def Obligations.DisableSequence : Prop :=
  ∀ (s : State), s.fault = none →
    (∀ c, s.cfg = some c →
      exec (.setEnabled false) s = .next
        { s.withEvents c
            (frames s.par.spiMode c [(.low, s.par.cmd.power)] ++ [.delay 10]
              ++ frames s.par.spiMode c [(.low, s.par.cmd.display)]
              ++ (match c.rst with
                | none => []
                | some r => [.pinLevel r .low])
              ++ [.pinLevel c.cs .low, .pinLevel c.cd .low, .delay 1]) with
          enabled := false, ctl := .disabled }) ∧
    (s.cfg = none → exec (.setEnabled false) s = .next { s with fault := some .noTransport })

/-- After `setEnabled(false)` chip-select, command/data and the reset line, if any, are LOW (10_state R29, 70_reset
R156, which the spec derives), and with a reset pin the receiver's pointers and display RAM are free values (20_memory
R55, the spec's decision D26); that they are the draw of one number is log 10 (DESIGN CHOICE). -/
def Obligations.LinesAfterDisable : Prop :=
  ∀ (s t : State) (c : Cfg), s.fault = none → s.cfg = some c → badPins c.cs c.cd c.rst = false →
    exec (.setEnabled false) s = .next t →
    lineLevel t.trace c.cs = .low ∧ lineLevel t.trace c.cd = .low ∧
    ∀ pin, c.rst = some pin → lineLevel t.trace pin = .low ∧
      ∃ k, t.rx.col = Config.freeCol k ∧ t.rx.page = Config.freePage k ∧
        ∀ a, t.rx.pram.read a = Config.freeByte k a

/-- `setEnabled(true)` runs the whole init sequence again with the recorded configuration, exactly as a `begin` with
that configuration would; in particular it clears the buffer. Without a transport it raises `NO_TRANSPORT`
(43_controller R121; that fault is the spec's decision D14). The premises on pins and offset are the invariant of
StepKeepsTheConfigurationLegal. -/
def Obligations.EnableIsInitAgain : Prop :=
  ∀ (s : State), s.fault = none →
    (∀ c, s.cfg = some c → badPins c.cs c.cd c.rst = false → c.hoffset = 0 →
      exec (.setEnabled true) s = exec (.beginOp true c.clock c.cs c.cd c.rst c.xflip c.yflip) s ∧
      ∃ t, exec (.setEnabled true) s = .next t ∧ t.enabled = true ∧ t.ctl = .enabled ∧ t.dfc = 0 ∧
        t.cfg = s.cfg ∧ ∀ j, t.fb.read j = 0) ∧
    (s.cfg = none → exec (.setEnabled true) s = .next { s with fault := some .noTransport })

/-- `setContrast(value)` sends command `0x81` and then the value modulo 64 as data, twelve events, and writes nothing
else of the block (43_controller R122; the argument's eight bits are the spec's decision D18, the fault without a
transport D14). -/
def Obligations.SetContrastMasksItsValue : Prop :=
  ∀ (v : Byte) (s : State), s.fault = none →
    (∀ c, s.cfg = some c →
      exec (.setContrast v) s = .next (s.withEvents c
        (frames s.par.spiMode c [(.low, 0x81), (.high, BitVec.ofNat 8 (v.toNat % 64))]))) ∧
    (s.cfg = none → exec (.setContrast v) s = .next { s with fault := some .noTransport })

/-- `setResistor(value)` sends `CMD_RESISTOR` (by default `0x20`) with the value for 0..7; above 7 it raises
`BAD_ARGUMENT` whether or not there is a transport
(43_controller R123, 60_exceptions R134; the spec's decisions D17, D14, D35; the command byte is log 12). -/
def Obligations.SetResistorSendsOrFaults : Prop :=
  ∀ (v : Nat) (s : State), s.fault = none →
    (∀ c, v ≤ 7 → s.cfg = some c →
      exec (.setResistor v) s = .next (s.withEvents c
        (frames s.par.spiMode c [(.low, s.par.cmd.resistor ||| BitVec.ofNat 8 v)]))) ∧
    (v ≤ 7 → s.cfg = none → exec (.setResistor v) s = .next { s with fault := some .noTransport }) ∧
    (7 < v → exec (.setResistor v) s = .next { s with fault := some .badArgument })

/-- `setInverted(on)` sends `CMD_INVERSE` with its low bit on or off (by default `0xA7` and `0xA6`), and writes nothing
else of the block; without a transport it raises `NO_TRANSPORT` (43_controller R124; that fault is the spec's decision
D14, the command byte is log 12). -/
def Obligations.SetInvertedSendsItsCommand : Prop :=
  ∀ (on : Bool) (s : State), s.fault = none →
    (∀ c, s.cfg = some c →
      exec (.setInverted on) s = .next (s.withEvents c
        (frames s.par.spiMode c [(.low, s.par.cmd.inverse ||| if on = true then 1 else 0)]))) ∧
    (s.cfg = none → exec (.setInverted on) s = .next { s with fault := some .noTransport })

/-! ## Who writes what: rules over every instruction -/

/-- The orientation is written only by `setOrientation` (10_state R19). -/
def Obligations.OnlySetOrientationWritesTheOrientation : Prop :=
  ∀ (i : Instr) (s t : State), exec i s = .next t → (∀ r, i ≠ .setOrientation r) → t.orient = s.orient

/-- The enabled flag and the controller state are written only by `begin` with a transport and `setEnabled`
(10_state R20, R22). -/
def Obligations.OnlyBeginAndSetEnabledWriteTheFlag : Prop :=
  ∀ (i : Instr) (s t : State), exec i s = .next t →
    (∀ clk cs cd rst xf yf, i ≠ .beginOp true clk cs cd rst xf yf) → (∀ on, i ≠ .setEnabled on) →
    t.enabled = s.enabled ∧ t.ctl = s.ctl

/-- The framebuffer is written only by `setPixel`, `clear` and init, and the deferred-flush counter only by `clear` and
init (10_state R18, R21); a `flush` or `setEnabled(false)` never writes either. -/
def Obligations.OnlyPixelClearAndInitWriteTheBuffer : Prop :=
  ∀ (i : Instr) (s t : State), exec i s = .next t →
    (∀ clk cs cd rst xf yf, i ≠ .beginOp true clk cs cd rst xf yf) → i ≠ .setEnabled true → i ≠ .clear →
    t.dfc = s.dfc ∧ ((∀ x y k, i ≠ .setPixel x y k) → t.fb = s.fb)

/-- The configuration and the diagnostics are written only by `begin`; the parameters and the calls still to come by no
instruction (10_state R17, R23, R27). -/
def Obligations.OnlyBeginWritesTheConfiguration : Prop :=
  ∀ (i : Instr) (s t : State), exec i s = .next t →
    t.par = s.par ∧ t.input = s.input ∧
    ((∀ tr clk cs cd rst xf yf, i ≠ .beginOp tr clk cs cd rst xf yf) → t.cfg = s.cfg ∧ t.diag = s.diag)

/-- The trace only grows, and the receiver takes exactly the events appended to it, on the configured pins
(10_state R26, 20_memory R48, the spec's decision D26; log 8). -/
def Obligations.TraceGrowsAndReceiverFollows : Prop :=
  ∀ (i : Instr) (s t : State), exec i s = .next t →
    ∃ evs, t.trace = s.trace ++ evs ∧
      match t.cfg with
      | none => evs = [] ∧ t.rx = s.rx
      | some c => t.rx = recvEvents s.par c (Lines.of c s.trace) s.rx evs

/-- The enabled flag is read only by the "on" path of `setPixel`: every other instruction does the same whatever the
flag is (10_state R20). -/
def Obligations.OnlySetPixelOnReadsTheFlag : Prop :=
  ∀ (i : Instr) (s t : State) (e : Bool), (∀ x y, i ≠ .setPixel x y true) → exec i s = .next t →
    ∃ e', exec i { s with enabled := e } = .next { t with enabled := e' }

/-- Every command byte a host operation puts on the bus is one the command table lists as sent, for legal
command bytes (30_encoding R70, R79; log 12). -/
def Obligations.HostOperationsSendTableCommandsOnly : Prop :=
  ∀ (i : Instr) (s t : State) (c : Cfg) (evs : List Event) (l : Level) (b : Byte), i.isHostOp = true →
    exec i s = .next t → t.cfg = some c → c.cs ≠ c.cd → t.trace = s.trace ++ evs →
    (.low, b) ∈ bytesFrom c.cd l evs → s.par.cmd.legal = true →
    ∃ j : Instr, decodeCommand s.par.cmd b = .ok j ∧ j.wf = true

/-! ## Invariants -/

/-- Every step keeps both memories in canonical form, every listed address inside its memory (20_memory R37, R48; the
form is the model's own, log 6). -/
def Obligations.StepKeepsMemoryCanonical : Prop :=
  ∀ s t : State, s.memoryOk → step s = .next t → t.memoryOk

/-- A block that has begun has a zero counter, is ENABLED or DISABLED, and its flag says which; one that has not is
UNINIT (10_state R31, 43_controller R127). Every step keeps this. -/
def Obligations.StepKeepsFlagAndStateAgreeing : Prop :=
  ∀ s t : State, s.booted → step s = .next t → t.booted

/-- Every step keeps the recorded pins distinct, the recorded offset zero (10_state R24, R30) and the command bytes legal
(30_encoding R70, log 12). -/
def Obligations.StepKeepsTheConfigurationLegal : Prop :=
  ∀ s t : State, s.cfgOk → step s = .next t → t.cfgOk

/-- Every step that does not move the block to other pins keeps the receiver equal to what the trace makes of it
(20_memory R48, the spec's decision D26). That the pins of a later `begin` do not read the earlier events again is the model's reading, log 8. -/
def Obligations.StepKeepsReceiverAFunctionOfTheTrace : Prop :=
  ∀ s t : State, s.rxOk → step s = .next t →
    (∀ c d, s.cfg = some c → t.cfg = some d → c.cs = d.cs ∧ c.cd = d.cd ∧ c.rst = d.rst) → t.rxOk

/-- At construction the controller state is UNINIT, there is no configuration, the trace and the diagnostics are empty
and no fault is recorded; the instance is 102 by 64, 816 bytes (10_state R36, 00_scope R7). -/
def Obligations.ConstructionState : Prop :=
  State.reset.ctl = .uninit ∧ State.reset.cfg = none ∧ State.reset.trace = [] ∧ State.reset.diag = [] ∧
  State.reset.fault = none ∧ State.reset.par.width = 102 ∧ State.reset.par.height = 64 ∧
  State.reset.par.pages = 8 ∧ State.reset.par.size = 816

/-- The command bytes at construction are the defaults of 30_encoding R70, row by row, with the bytes the block sends for
each field (the spec's from general knowledge, log 12; `0x81` is the source's). -/
def Obligations.DefaultCommandBytes : Prop :=
  State.reset.par.cmd = Config.commands ∧
  (∀ l, colLsbByte Config.commands l = BitVec.ofNat 8 l.toNat) ∧
  (∀ h, colMsbByte Config.commands h = BitVec.ofNat 8 (0x10 + h.toNat)) ∧
  (∀ r, resistorByte Config.commands r = BitVec.ofNat 8 (0x20 + r.toNat)) ∧
  powerByte Config.commands 7 = 0x2F ∧ powerByte Config.commands 0 = 0x28 ∧
  scrollByte Config.commands 0 = 0x40 ∧ Config.cmdEv = 0x81 ∧
  segByte Config.commands false = 0xA0 ∧ segByte Config.commands true = 0xA1 ∧
  biasByte Config.commands false = 0xA2 ∧ biasByte Config.commands true = 0xA3 ∧
  Config.commands.allpix = 0xA4 ∧
  inverseByte Config.commands false = 0xA6 ∧ inverseByte Config.commands true = 0xA7 ∧
  displayByte Config.commands false = 0xAE ∧ displayByte Config.commands true = 0xAF ∧
  (∀ p, pageByte Config.commands p = BitVec.ofNat 8 (0xB0 + p.toNat)) ∧
  comByte Config.commands false = 0xC0 ∧ comByte Config.commands true = 0xC8 ∧
  Config.commands.sysreset = 0xE2 ∧ Config.commands.apc = 0xFA

/-- The invariants hold of a block just constructed (10_state R36, 20_memory R48). The canonical form of the memories is
the model's own (log 6, DESIGN CHOICE); the command bytes are the spec's defaults (30_encoding R70; log 12, PRESUMED), and
what makes command bytes legal is log 12 (DEDUCED). The initial receiver is the spec's decision D26, its draws log 10
(DESIGN CHOICE), no argument byte awaited log 11 (DEDUCED). -/
def Obligations.ConstructionMeetsTheInvariants : Prop :=
  State.reset.memoryOk ∧ State.reset.booted ∧ State.reset.cfgOk ∧ State.reset.rxOk
end

