-- ==== Sys2Proof/Laws/Decode.lean ====
section
/-! SUPPORT. What legal command bytes give: every command byte fits its own row and no other, and gives its field back. -/

namespace Sys2Proof

/-! ## Rows -/

/-- The default command bytes are legal (30_encoding R70). -/
theorem Config.commands_legal : Config.commands.legal = true := by decide

/-- No byte fits two rows that are apart. -/
theorem Pattern.not_fits_of_apart {p q : Pattern} {b : Byte} (h : p.apart q = true) (hp : p.fits b = true) :
    q.fits b = false := by
  simp only [Pattern.fits, Pattern.apart, beq_iff_eq, bne_iff_ne, ne_eq, beq_eq_false_iff_ne] at *
  intro hq
  apply h
  rw [← hp, ← hq]
  ext i
  simp only [BitVec.getElem_and, BitVec.getElem_xor]
  cases b[i] <;> cases p.mask[i] <;> cases q.mask[i] <;> simp

/-- The rows of a list that keeps them apart are pairwise apart. -/
theorem apartAll_pairwise (ps : List Pattern) (h : apartAll ps = true) : ps.Pairwise fun p q => p.apart q = true := by
  induction ps with
  | nil => exact .nil
  | cons p rest ih =>
    simp only [apartAll, Bool.and_eq_true, List.all_eq_true] at h
    exact .cons h.1 (ih h.2)

/-- The rows of legal command bytes are pairwise apart (30_encoding R70). -/
theorem CommandBytes.pairwise_apart (c : CommandBytes) (h : c.legal = true) :
    c.patterns.Pairwise fun p q => p.apart q = true := by
  simp only [CommandBytes.legal, Bool.and_eq_true] at h
  exact apartAll_pairwise _ h.2

/-- A legal command byte is zero in its field (30_encoding R70). -/
theorem CommandBytes.value_masked (c : CommandBytes) (h : c.legal = true) {p : Pattern} (hp : p ∈ c.patterns) :
    p.value &&& p.mask = p.value := by
  simp only [CommandBytes.legal, Bool.and_eq_true, List.all_eq_true, beq_iff_eq] at h
  exact h.1 p hp

/-- A row's value with a field outside its mask fits the row. -/
theorem Pattern.fits_or (p : Pattern) (f : Byte) (hp : p.value &&& p.mask = p.value) (hf : f &&& p.mask = 0) :
    p.fits (p.value ||| f) = true := by
  simp [Pattern.fits, BitVec.and_or_distrib_right, hp, hf]

/-- A row's value alone fits the row. -/
theorem Pattern.fits_value (p : Pattern) (hp : p.value &&& p.mask = p.value) : p.fits p.value = true := by
  simp [Pattern.fits, hp]

/-! ## Each command byte fits its own row (30_encoding R70) -/

theorem fits_colLsb {c : CommandBytes} (h : c.legal = true) (l : BitVec 4) :
    c.patColLsb.fits (colLsbByte c l) = true :=
  c.patColLsb.fits_or _ (c.value_masked h (by simp [CommandBytes.patterns, CommandBytes.rows]))
    (by show l.setWidth 8 &&& 0xF0 = (0 : Byte); revert l; decide)
theorem fits_colMsb {c : CommandBytes} (h : c.legal = true) (f : BitVec 4) :
    c.patColMsb.fits (colMsbByte c f) = true :=
  c.patColMsb.fits_or _ (c.value_masked h (by simp [CommandBytes.patterns, CommandBytes.rows]))
    (by show f.setWidth 8 &&& 0xF0 = (0 : Byte); revert f; decide)
theorem fits_resistor {c : CommandBytes} (h : c.legal = true) (r : BitVec 3) :
    c.patResistor.fits (resistorByte c r) = true :=
  c.patResistor.fits_or _ (c.value_masked h (by simp [CommandBytes.patterns, CommandBytes.rows]))
    (by show r.setWidth 8 &&& 0xF8 = (0 : Byte); revert r; decide)
theorem fits_power {c : CommandBytes} (h : c.legal = true) (p : BitVec 3) :
    c.patPower.fits (powerByte c p) = true :=
  c.patPower.fits_or _ (c.value_masked h (by simp [CommandBytes.patterns, CommandBytes.rows]))
    (by show p.setWidth 8 &&& 0xF8 = (0 : Byte); revert p; decide)
theorem fits_scroll {c : CommandBytes} (h : c.legal = true) (s : BitVec 6) :
    c.patScroll.fits (scrollByte c s) = true :=
  c.patScroll.fits_or _ (c.value_masked h (by simp [CommandBytes.patterns, CommandBytes.rows]))
    (by show s.setWidth 8 &&& 0xC0 = (0 : Byte); revert s; decide)
theorem fits_seg {c : CommandBytes} (h : c.legal = true) (m : Bool) :
    c.patSeg.fits (segByte c m) = true :=
  c.patSeg.fits_or _ (c.value_masked h (by simp [CommandBytes.patterns, CommandBytes.rows]))
    (by show bit1 m &&& 0xFE = (0 : Byte); revert m; decide)
theorem fits_bias {c : CommandBytes} (h : c.legal = true) (b : Bool) :
    c.patBias.fits (biasByte c b) = true :=
  c.patBias.fits_or _ (c.value_masked h (by simp [CommandBytes.patterns, CommandBytes.rows]))
    (by show bit1 b &&& 0xFE = (0 : Byte); revert b; decide)
theorem fits_inverse {c : CommandBytes} (h : c.legal = true) (i : Bool) :
    c.patInverse.fits (inverseByte c i) = true :=
  c.patInverse.fits_or _ (c.value_masked h (by simp [CommandBytes.patterns, CommandBytes.rows]))
    (by show bit1 i &&& 0xFE = (0 : Byte); revert i; decide)
theorem fits_display {c : CommandBytes} (h : c.legal = true) (d : Bool) :
    c.patDisplay.fits (displayByte c d) = true :=
  c.patDisplay.fits_or _ (c.value_masked h (by simp [CommandBytes.patterns, CommandBytes.rows]))
    (by show bit1 d &&& 0xFE = (0 : Byte); revert d; decide)
theorem fits_page {c : CommandBytes} (h : c.legal = true) (p : BitVec 4) :
    c.patPage.fits (pageByte c p) = true :=
  c.patPage.fits_or _ (c.value_masked h (by simp [CommandBytes.patterns, CommandBytes.rows]))
    (by show p.setWidth 8 &&& 0xF0 = (0 : Byte); revert p; decide)
theorem fits_com {c : CommandBytes} (h : c.legal = true) (m : Bool) :
    c.patCom.fits (comByte c m) = true :=
  c.patCom.fits_or _ (c.value_masked h (by simp [CommandBytes.patterns, CommandBytes.rows]))
    (by show (bit1 m <<< 3) &&& 0xF7 = (0 : Byte); revert m; decide)
theorem fits_allpix {c : CommandBytes} (h : c.legal = true) : c.patAllpix.fits c.allpix = true :=
  c.patAllpix.fits_value (c.value_masked h (by simp [CommandBytes.patterns, CommandBytes.rows]))
theorem fits_sysreset {c : CommandBytes} (h : c.legal = true) : c.patSysreset.fits c.sysreset = true :=
  c.patSysreset.fits_value (c.value_masked h (by simp [CommandBytes.patterns, CommandBytes.rows]))
theorem fits_apc {c : CommandBytes} (h : c.legal = true) : c.patApc.fits c.apc = true :=
  c.patApc.fits_value (c.value_masked h (by simp [CommandBytes.patterns, CommandBytes.rows]))

/-! ## Reading a byte that fits a row (30_encoding R82) -/

/-- Where rows are pairwise apart, a byte that fits one of them is read by that row. -/
theorem readRows_of_fits {rows : List (Pattern × (Byte → Instr))} (h : apartAll (rows.map (·.1)) = true) {b : Byte}
    {p : Pattern} {instr : Byte → Instr} (hm : (p, instr) ∈ rows) (hf : p.fits b = true) :
    readRows rows b = .ok (instr b) := by
  induction rows with
  | nil => cases hm
  | cons r rest ih =>
    simp only [List.map_cons, apartAll, Bool.and_eq_true, List.all_eq_true] at h
    rcases List.mem_cons.mp hm with rfl | hm
    · simp [readRows, hf]
    · have hr : r.1.fits b = false := by
        cases hb : r.1.fits b with
        | false => rfl
        | true => rw [Pattern.not_fits_of_apart (h.1 p (List.mem_map_of_mem hm)) hb] at hf; cases hf
      simp [readRows, hr, ih h.2 hm]

/-- A byte that fits a row of legal command bytes is read by that row. -/
theorem decodeCommand_of_fits {c : CommandBytes} (h : c.legal = true) {b : Byte} {p : Pattern} {instr : Byte → Instr}
    (hm : (p, instr) ∈ c.rows) (hf : p.fits b = true) : decodeCommand c b = .ok (instr b) := by
  simp only [CommandBytes.legal, Bool.and_eq_true] at h
  exact readRows_of_fits h.2 hm hf

/-- What is read from a command byte is the instruction of a row the byte fits. -/
theorem decodeCommand_row {c : CommandBytes} {b : Byte} {i : Instr} (h : decodeCommand c b = .ok i) :
    ∃ r ∈ c.rows, r.1.fits b = true ∧ r.2 b = i := by
  have key : ∀ rows, readRows rows b = .ok i → ∃ r ∈ rows, r.1.fits b = true ∧ r.2 b = i := by
    intro rows
    induction rows with
    | nil => intro h; cases h
    | cons r rest ih =>
      intro h
      simp only [readRows] at h
      split at h
      · next hf => cases h; exact ⟨r, List.mem_cons_self, hf, rfl⟩
      · obtain ⟨q, hq, hf⟩ := ih h
        exact ⟨q, List.mem_cons_of_mem _ hq, hf⟩
  exact key _ h

/-- A byte that fits a row of legal command bytes fits no row that would read it as another instruction. -/
theorem CommandBytes.not_fits (c : CommandBytes) (h : c.legal = true) {b : Byte} {p q : Pattern} {f g : Byte → Instr}
    (hp : (p, f) ∈ c.rows) (hq : (q, g) ∈ c.rows) (hne : f b ≠ g b) (hf : p.fits b = true) : q.fits b = false := by
  cases hb : q.fits b with
  | false => rfl
  | true =>
    have := (decodeCommand_of_fits h hp hf).symm.trans (decodeCommand_of_fits h hq hb)
    exact absurd (Except.ok.inj this) hne

/-! ## Fields -/

/-- A field that lies where the mask is zero is all that is left of the byte there. -/
theorem setWidth_or_field (n : Nat) (v m : Byte) (f : BitVec n) (hn : n ≤ 8) (hv : v &&& m = v)
    (hm : m.setWidth n = 0#n) : (v ||| f.setWidth 8).setWidth n = f := by
  rw [← hv, BitVec.setWidth_or, BitVec.setWidth_and, hm, BitVec.and_zero, BitVec.zero_or,
    BitVec.setWidth_setWidth_of_le _ hn, BitVec.setWidth_eq]

/-- A one-bit field is all that is left of the byte at its place. -/
theorem bit_or_field (v m : Byte) (f : Byte) (k : Nat) (hv : v &&& m = v) (hm : m.getLsbD k = false) :
    (v ||| f).getLsbD k = f.getLsbD k := by
  rw [← hv]
  simp [BitVec.getLsbD_or, BitVec.getLsbD_and, hm]

end Sys2Proof
end

