-- ==== Sys2Proof/Laws/Receiver.lean ====
section
/-! SUPPORT. Levels, byte streams and the receiver over appended events and over byte frames. -/

namespace Sys2Proof.Machine

/-! ## Levels -/

/-- The last level over two lists of events: the later list's, where it drives the pin at all. -/
theorem lastLevel_append (t u : List Event) (pin : Nat) :
    lastLevel (t ++ u) pin = (lastLevel u pin).or (lastLevel t pin) := by
  induction t with
  | nil => simp [lastLevel]
  | cons e rest ih =>
    cases e <;> simp only [List.cons_append, lastLevel, ih]
    cases lastLevel u pin <;> rfl

/-- One more event changes a pin's level only if it drives that pin. -/
theorem lineLevel_snoc (t : List Event) (e : Event) (pin : Nat) :
    lineLevel (t ++ [e]) pin = stepLevel pin (lineLevel t pin) e := by
  simp only [lineLevel, lastLevel_append]
  cases e with
  | pinLevel p l => by_cases h : p = pin <;> simp [lastLevel, stepLevel, h]
  | pinMode _ | beginTx _ _ | xfer _ | endTx | delay _ => simp [lastLevel, stepLevel]

/-- The levels of the configured pins after one more event. -/
theorem Lines.of_snoc (c : Cfg) (t : List Event) (e : Event) : Lines.of c (t ++ [e]) = (Lines.of c t).step c e := by
  simp only [Lines.of, Lines.step, lineLevel_snoc]
  cases c.rst <;> simp [lineLevel_snoc]

/-- The levels of the configured pins after more events. -/
theorem Lines.of_append (c : Cfg) (t u : List Event) : Lines.of c (t ++ u) = u.foldl (Lines.step c) (Lines.of c t) := by
  induction u generalizing t with
  | nil => simp
  | cons e rest ih =>
    rw [List.append_cons, ih, Lines.of_snoc]; rfl

/-! ## The receiver over events -/

/-- The receiver takes two lists of events one after the other. -/
theorem recvEvents_append (p : Params) (c : Cfg) (u v : List Event) (ln : Lines) (r : Rx) :
    recvEvents p c ln r (u ++ v) = recvEvents p c (u.foldl (Lines.step c) ln) (recvEvents p c ln r u) v := by
  induction u generalizing ln r with
  | nil => rfl
  | cons e rest ih => simp only [List.cons_append, recvEvents, List.foldl_cons, ih]

/-- The receiver of a whole trace takes the events appended to it in turn (20_memory R48). -/
theorem recv_append (p : Params) (c : Cfg) (t u : List Event) :
    recv p c (t ++ u) = recvEvents p c (Lines.of c t) (recv p c t) u := by
  have h := Lines.of_append c [] t
  simp only [List.nil_append] at h
  simp only [recv, recvEvents_append, h]

/-! ## Byte frames -/

/-- Pins the block accepts are pairwise distinct (60_exceptions R131). -/
theorem badPins_eq_false {cs cd : Nat} {rst : Option Nat} (h : badPins cs cd rst = false) :
    cs ≠ cd ∧ rst ≠ some cs ∧ rst ≠ some cd := by
  simp only [badPins, Bool.or_eq_false_iff, beq_eq_false_iff_ne] at h
  exact ⟨h.1.1, h.1.2, h.2⟩

/-- The lines after a byte frame: chip-select idle, CD at the frame's level, the reset line as before
(40_protocol R88). -/
theorem Lines.after_frame (mode : Fin 4) (c : Cfg) (lvl : Level) (b : Byte) (ln : Lines)
    (hp : badPins c.cs c.cd c.rst = false) :
    (frame mode c lvl b).foldl (Lines.step c) ln = { cs := .high, cd := lvl, rst := ln.rst } := by
  obtain ⟨h1, h2, h3⟩ := badPins_eq_false hp
  simp only [frame, List.foldl_cons, List.foldl_nil, Lines.step, stepLevel, if_neg h1, if_neg (Ne.symm h1), if_true]
  cases hr : c.rst with
  | none => rfl
  | some pin =>
    rw [hr] at h2 h3
    cases ln.rst with
    | none => rfl
    | some l =>
      have e1 : c.cs ≠ pin := fun h => h2 (by rw [h])
      have e2 : c.cd ≠ pin := fun h => h3 (by rw [h])
      simp [e1, e2]

/-- A byte frame delivers its byte, unless the reset line is LOW (20_memory R49, R55). -/
theorem recvEvents_frame (p : Params) (mode : Fin 4) (c : Cfg) (lvl : Level) (b : Byte) (ln : Lines) (r : Rx)
    (hp : badPins c.cs c.cd c.rst = false) :
    recvEvents p c ln r (frame mode c lvl b) = if ln.rst = some .low then r else r.deliver p lvl b := by
  obtain ⟨h1, h2, h3⟩ := badPins_eq_false hp
  have key : ∀ ln' : Lines, recvEvents p c ln' r (frame mode c lvl b) =
      if (({ cs := .low, cd := lvl, rst := ln'.rst } : Lines).delivers) then r.deliver p lvl b else r := by
    intro ln'
    simp only [frame, recvEvents, recvEvent, Lines.step, stepLevel, if_neg h1, if_neg (Ne.symm h1), if_true, h2, h3,
      false_and, if_false]
    cases hr : c.rst with
    | none => simp
    | some pin =>
      rw [hr] at h2 h3
      have e1 : c.cs ≠ pin := fun h => h2 (by rw [h])
      have e2 : c.cd ≠ pin := fun h => h3 (by rw [h])
      cases ln'.rst <;> simp [e1, e2]
  rw [key]
  by_cases h : ln.rst = some .low <;> simp [Lines.delivers, h]

/-- The lines after the frames of several bytes: as they were for no byte, else idle at the last byte's level. -/
theorem Lines.after_frames_rst (mode : Fin 4) (c : Cfg) (bs : List (Level × Byte)) (ln : Lines)
    (hp : badPins c.cs c.cd c.rst = false) : ((frames mode c bs).foldl (Lines.step c) ln).rst = ln.rst := by
  induction bs generalizing ln with
  | nil => rfl
  | cons x rest ih =>
    simp only [frames, List.flatMap_cons, List.foldl_append, Lines.after_frame mode c x.1 x.2 ln hp]
    exact ih _

/-- The frames of several bytes deliver them in order, while the reset line is not LOW. -/
theorem recvEvents_frames (p : Params) (mode : Fin 4) (c : Cfg) (bs : List (Level × Byte)) (ln : Lines) (r : Rx)
    (hp : badPins c.cs c.cd c.rst = false) (hr : ln.rst ≠ some .low) :
    recvEvents p c ln r (frames mode c bs) = bs.foldl (fun r x => r.deliver p x.1 x.2) r := by
  induction bs generalizing ln r with
  | nil => rfl
  | cons x rest ih =>
    simp only [frames, List.flatMap_cons, List.foldl_cons, recvEvents_append, Lines.after_frame mode c x.1 x.2 ln hp,
      recvEvents_frame p mode c x.1 x.2 ln r hp, if_neg hr]
    exact ih _ _ hr

/-- While the reset line is LOW the frames deliver nothing (20_memory R55). -/
theorem recvEvents_frames_reset (p : Params) (mode : Fin 4) (c : Cfg) (bs : List (Level × Byte)) (ln : Lines) (r : Rx)
    (hp : badPins c.cs c.cd c.rst = false) (hr : ln.rst = some .low) :
    recvEvents p c ln r (frames mode c bs) = r := by
  induction bs generalizing ln with
  | nil => rfl
  | cons x rest ih =>
    simp only [frames, List.flatMap_cons, recvEvents_append, Lines.after_frame mode c x.1 x.2 ln hp,
      recvEvents_frame p mode c x.1 x.2 ln r hp, if_pos hr]
    exact ih _ hr

@[simp] theorem frame_length (mode : Fin 4) (c : Cfg) (lvl : Level) (b : Byte) : (frame mode c lvl b).length = 6 := rfl

/-- Each byte costs six events (30_encoding R65). -/
@[simp] theorem frames_length (mode : Fin 4) (c : Cfg) (bs : List (Level × Byte)) :
    (frames mode c bs).length = 6 * bs.length := by
  induction bs with
  | nil => rfl
  | cons x rest ih =>
    simp only [frames, List.flatMap_cons, List.length_append, frame_length, List.length_cons] at ih ⊢
    omega

/-- The byte stream of the frames of several bytes is those bytes (30_encoding R64). -/
theorem bytesFrom_frames (mode : Fin 4) (c : Cfg) (bs : List (Level × Byte)) (l : Level) (h : c.cs ≠ c.cd) :
    bytesFrom c.cd l (frames mode c bs) = bs := by
  induction bs generalizing l with
  | nil => rfl
  | cons x rest ih =>
    have hx : bytesFrom c.cd l (frames mode c (x :: rest)) = x :: bytesFrom c.cd x.1 (frames mode c rest) := by
      simp [frames, frame, bytesFrom, stepLevel, h]
    rw [hx, ih]

/-- The byte stream of one list of events after another. -/
theorem bytesFrom_append (cd : Nat) (l : Level) (t u : List Event) :
    bytesFrom cd l (t ++ u) = bytesFrom cd l t ++ bytesFrom cd (t.foldl (stepLevel cd) l) u := by
  induction t generalizing l with
  | nil => rfl
  | cons e rest ih => cases e <;> simp [bytesFrom, stepLevel, ih]

end Sys2Proof.Machine
end

