-- ==== Sys2Proof/Laws/State.lean ====
section
/-! SUPPORT. What each update of the state does to each field. -/

namespace Sys2Proof.Machine

@[simp] theorem State.raise_par (s : State) (c : FaultCode) : (s.raise c).par = s.par := rfl
@[simp] theorem State.raise_fb (s : State) (c : FaultCode) : (s.raise c).fb = s.fb := rfl
@[simp] theorem State.raise_orient (s : State) (c : FaultCode) : (s.raise c).orient = s.orient := rfl
@[simp] theorem State.raise_enabled (s : State) (c : FaultCode) : (s.raise c).enabled = s.enabled := rfl
@[simp] theorem State.raise_dfc (s : State) (c : FaultCode) : (s.raise c).dfc = s.dfc := rfl
@[simp] theorem State.raise_ctl (s : State) (c : FaultCode) : (s.raise c).ctl = s.ctl := rfl
@[simp] theorem State.raise_cfg (s : State) (c : FaultCode) : (s.raise c).cfg = s.cfg := rfl
@[simp] theorem State.raise_trace (s : State) (c : FaultCode) : (s.raise c).trace = s.trace := rfl
@[simp] theorem State.raise_diag (s : State) (c : FaultCode) : (s.raise c).diag = s.diag := rfl
@[simp] theorem State.raise_fault (s : State) (c : FaultCode) : (s.raise c).fault = some c := rfl
@[simp] theorem State.raise_rx (s : State) (c : FaultCode) : (s.raise c).rx = s.rx := rfl
@[simp] theorem State.raise_input (s : State) (c : FaultCode) : (s.raise c).input = s.input := rfl

@[simp] theorem State.report_par (s : State) (c : DiagCode) : (s.report c).par = s.par := rfl
@[simp] theorem State.report_fb (s : State) (c : DiagCode) : (s.report c).fb = s.fb := rfl
@[simp] theorem State.report_orient (s : State) (c : DiagCode) : (s.report c).orient = s.orient := rfl
@[simp] theorem State.report_enabled (s : State) (c : DiagCode) : (s.report c).enabled = s.enabled := rfl
@[simp] theorem State.report_dfc (s : State) (c : DiagCode) : (s.report c).dfc = s.dfc := rfl
@[simp] theorem State.report_ctl (s : State) (c : DiagCode) : (s.report c).ctl = s.ctl := rfl
@[simp] theorem State.report_cfg (s : State) (c : DiagCode) : (s.report c).cfg = s.cfg := rfl
@[simp] theorem State.report_trace (s : State) (c : DiagCode) : (s.report c).trace = s.trace := rfl
@[simp] theorem State.report_diag (s : State) (c : DiagCode) : (s.report c).diag = s.diag ++ [c] := rfl
@[simp] theorem State.report_fault (s : State) (c : DiagCode) : (s.report c).fault = s.fault := rfl
@[simp] theorem State.report_rx (s : State) (c : DiagCode) : (s.report c).rx = s.rx := rfl
@[simp] theorem State.report_input (s : State) (c : DiagCode) : (s.report c).input = s.input := rfl

@[simp] theorem State.setEnabledFlag_par (s : State) (b : Bool) : (s.setEnabledFlag b).par = s.par := rfl
@[simp] theorem State.setEnabledFlag_fb (s : State) (b : Bool) : (s.setEnabledFlag b).fb = s.fb := rfl
@[simp] theorem State.setEnabledFlag_orient (s : State) (b : Bool) : (s.setEnabledFlag b).orient = s.orient := rfl
@[simp] theorem State.setEnabledFlag_enabled (s : State) (b : Bool) : (s.setEnabledFlag b).enabled = b := rfl
@[simp] theorem State.setEnabledFlag_dfc (s : State) (b : Bool) : (s.setEnabledFlag b).dfc = s.dfc := rfl
@[simp] theorem State.setEnabledFlag_ctl (s : State) (b : Bool) : (s.setEnabledFlag b).ctl = s.ctl := rfl
@[simp] theorem State.setEnabledFlag_cfg (s : State) (b : Bool) : (s.setEnabledFlag b).cfg = s.cfg := rfl
@[simp] theorem State.setEnabledFlag_trace (s : State) (b : Bool) : (s.setEnabledFlag b).trace = s.trace := rfl
@[simp] theorem State.setEnabledFlag_diag (s : State) (b : Bool) : (s.setEnabledFlag b).diag = s.diag := rfl
@[simp] theorem State.setEnabledFlag_fault (s : State) (b : Bool) : (s.setEnabledFlag b).fault = s.fault := rfl
@[simp] theorem State.setEnabledFlag_rx (s : State) (b : Bool) : (s.setEnabledFlag b).rx = s.rx := rfl
@[simp] theorem State.setEnabledFlag_input (s : State) (b : Bool) : (s.setEnabledFlag b).input = s.input := rfl

@[simp] theorem State.setCtl_par (s : State) (c : Ctl) : (s.setCtl c).par = s.par := rfl
@[simp] theorem State.setCtl_fb (s : State) (c : Ctl) : (s.setCtl c).fb = s.fb := rfl
@[simp] theorem State.setCtl_orient (s : State) (c : Ctl) : (s.setCtl c).orient = s.orient := rfl
@[simp] theorem State.setCtl_enabled (s : State) (c : Ctl) : (s.setCtl c).enabled = s.enabled := rfl
@[simp] theorem State.setCtl_dfc (s : State) (c : Ctl) : (s.setCtl c).dfc = s.dfc := rfl
@[simp] theorem State.setCtl_ctl (s : State) (c : Ctl) : (s.setCtl c).ctl = c := rfl
@[simp] theorem State.setCtl_cfg (s : State) (c : Ctl) : (s.setCtl c).cfg = s.cfg := rfl
@[simp] theorem State.setCtl_trace (s : State) (c : Ctl) : (s.setCtl c).trace = s.trace := rfl
@[simp] theorem State.setCtl_diag (s : State) (c : Ctl) : (s.setCtl c).diag = s.diag := rfl
@[simp] theorem State.setCtl_fault (s : State) (c : Ctl) : (s.setCtl c).fault = s.fault := rfl
@[simp] theorem State.setCtl_rx (s : State) (c : Ctl) : (s.setCtl c).rx = s.rx := rfl
@[simp] theorem State.setCtl_input (s : State) (c : Ctl) : (s.setCtl c).input = s.input := rfl

@[simp] theorem State.cleared_par (s : State) : s.cleared.par = s.par := rfl
@[simp] theorem State.cleared_fb (s : State) : s.cleared.fb = Memory.zeroed := rfl
@[simp] theorem State.cleared_orient (s : State) : s.cleared.orient = s.orient := rfl
@[simp] theorem State.cleared_enabled (s : State) : s.cleared.enabled = s.enabled := rfl
@[simp] theorem State.cleared_dfc (s : State) : s.cleared.dfc = 0 := rfl
@[simp] theorem State.cleared_ctl (s : State) : s.cleared.ctl = s.ctl := rfl
@[simp] theorem State.cleared_cfg (s : State) : s.cleared.cfg = s.cfg := rfl
@[simp] theorem State.cleared_trace (s : State) : s.cleared.trace = s.trace := rfl
@[simp] theorem State.cleared_diag (s : State) : s.cleared.diag = s.diag := rfl
@[simp] theorem State.cleared_fault (s : State) : s.cleared.fault = s.fault := rfl
@[simp] theorem State.cleared_rx (s : State) : s.cleared.rx = s.rx := rfl
@[simp] theorem State.cleared_input (s : State) : s.cleared.input = s.input := rfl

@[simp] theorem State.emit_par (s : State) (evs : List Event) : (s.emit evs).par = s.par := rfl
@[simp] theorem State.emit_fb (s : State) (evs : List Event) : (s.emit evs).fb = s.fb := rfl
@[simp] theorem State.emit_orient (s : State) (evs : List Event) : (s.emit evs).orient = s.orient := rfl
@[simp] theorem State.emit_enabled (s : State) (evs : List Event) : (s.emit evs).enabled = s.enabled := rfl
@[simp] theorem State.emit_dfc (s : State) (evs : List Event) : (s.emit evs).dfc = s.dfc := rfl
@[simp] theorem State.emit_ctl (s : State) (evs : List Event) : (s.emit evs).ctl = s.ctl := rfl
@[simp] theorem State.emit_cfg (s : State) (evs : List Event) : (s.emit evs).cfg = s.cfg := rfl
@[simp] theorem State.emit_trace (s : State) (evs : List Event) : (s.emit evs).trace = s.trace ++ evs := rfl
@[simp] theorem State.emit_diag (s : State) (evs : List Event) : (s.emit evs).diag = s.diag := rfl
@[simp] theorem State.emit_fault (s : State) (evs : List Event) : (s.emit evs).fault = s.fault := rfl
@[simp] theorem State.emit_input (s : State) (evs : List Event) : (s.emit evs).input = s.input := rfl

/-- The receiver takes the events on the configured pins; without a configuration there are none to take them. -/
theorem State.emit_rx_some (s : State) (c : Cfg) (evs : List Event) (h : s.cfg = some c) :
    (s.emit evs).rx = recvEvents s.par c (Lines.of c s.trace) s.rx evs := by
  simp [State.emit, h]

theorem State.emit_rx_none (s : State) (evs : List Event) (h : s.cfg = none) : (s.emit evs).rx = s.rx := by
  simp [State.emit, h]

end Sys2Proof.Machine
end

