-- ==== Sys2Proof/Laws/Ops.lean ====
section
/-! SUPPORT. What each shared operation can do. -/

namespace Sys2Proof.Machine

/-! ## Running and settling -/

/-- An operation answers a next state exactly in a state without a fault mark, and then its settled result. -/
theorem State.run_next_iff (s t : State) (result : Except FaultCode State) :
    s.run result = .next t ↔ s.fault = none ∧ s.settle result = t := by
  unfold State.run
  cases s.fault <;> simp

theorem State.run_of_safe (s : State) (result : Except FaultCode State) (h : s.fault = none) :
    s.run result = .next (s.settle result) := by
  simp [State.run, h]

/-- A faulted state takes no step (60_exceptions R130). -/
theorem State.run_of_faulted (s : State) (code : FaultCode) (result : Except FaultCode State)
    (h : s.fault = some code) : s.run result = .fault (.stopped code) := by
  simp [State.run, h]

@[simp] theorem State.settle_ok (s t : State) : s.settle (.ok t) = t := rfl

@[simp] theorem State.settle_error (s : State) (code : FaultCode) : s.settle (.error code) = s.raise code := rfl

/-! ## The framebuffer primitives -/

theorem State.memRead_ok (s : State) (i : Int) (h : 0 ≤ i ∧ i < s.par.size) :
    s.memRead i = .ok (s.fb.read i.toNat) := by
  simp [State.memRead, h]

theorem State.memWrite_ok (s : State) (i : Int) (v : Byte) (h : 0 ≤ i ∧ i < s.par.size) :
    s.memWrite i v = .ok { s with fb := s.fb.write i.toNat v } := by
  simp [State.memWrite, h]

/-- Reading several bytes inside the buffer gives their values in order. -/
theorem State.memReads_ok (s : State) (is : List Int) (h : ∀ i ∈ is, 0 ≤ i ∧ i < s.par.size) :
    s.memReads is = .ok (is.map fun i => s.fb.read i.toNat) := by
  induction is with
  | nil => rfl
  | cons i rest ih =>
    simp only [List.forall_mem_cons] at h
    simp [State.memReads, s.memRead_ok i h.1, ih h.2]

/-! ## Emitting and sending -/

/-- Emitting two lists of events is emitting the second after the first. -/
theorem State.emit_append (s : State) (u v : List Event) : s.emit (u ++ v) = (s.emit u).emit v := by
  unfold State.emit
  cases hc : s.cfg with
  | none => simp
  | some c => simp [recvEvents_append, Lines.of_append]

theorem State.send_some (s : State) (c : Cfg) (bs : List (Level × Byte)) (h : s.cfg = some c) :
    s.send bs = .ok (s.emit (frames s.par.spiMode c bs)) := by
  simp [State.send, h]

/-- Without a transport a send raises `NO_TRANSPORT` (40_protocol R86). -/
theorem State.send_none (s : State) (bs : List (Level × Byte)) (h : s.cfg = none) :
    s.send bs = .error .noTransport := by
  simp [State.send, h]

/-- A send whose bytes reach the receiver hands them to it in order (20_memory R49). -/
theorem State.emit_frames_rx (s : State) (c : Cfg) (bs : List (Level × Byte)) (h : s.cfg = some c)
    (hp : badPins c.cs c.cd c.rst = false) (hr : (Lines.of c s.trace).rst ≠ some .low) :
    (s.emit (frames s.par.spiMode c bs)).rx = bs.foldl (fun r x => r.deliver s.par x.1 x.2) s.rx := by
  rw [s.emit_rx_some c _ h, recvEvents_frames _ _ _ _ _ _ hp hr]

end Sys2Proof.Machine
end

