-- ==== Sys2Proof/Laws/Operands.lean ====
section
/-! SUPPORT. The coordinate arithmetic stays inside the framebuffer: every index a rule computes is in range
(20_memory R37). -/

namespace Sys2Proof

/-- The height is a whole number of pages (00_scope R7). -/
theorem Params.height_eq (p : Params) : p.height = 8 * p.pages := by
  have := p.geom.legal
  simp only [Params.height, Params.pages]
  omega

theorem Params.width_pos (p : Params) : 1 ≤ p.width := p.geom.legal.1
theorem Params.width_le (p : Params) : p.width ≤ 256 := p.geom.legal.2.1
theorem Params.pages_le (p : Params) : p.pages ≤ 16 := p.geom.legal.2.2.2.2
theorem Params.pages_pos (p : Params) : 1 ≤ p.pages := by
  have := p.geom.legal
  simp only [Params.pages]
  omega

end Sys2Proof

namespace Sys2Proof.Machine

@[simp] theorem mem_span (a b x : Int) : x ∈ span a b ↔ a ≤ x ∧ x ≤ b := by
  simp only [span, List.mem_map, List.mem_range]
  constructor
  · rintro ⟨k, hk, rfl⟩; omega
  · intro h; exact ⟨(x - a).toNat, by omega, by omega⟩

@[simp] theorem span_length (a b : Int) : (span a b).length = (b - a + 1).toNat := by simp [span]

theorem floorDiv_eq (a n : Int) (hn : 0 ≤ n) : floorDiv a n = a / n := Int.fdiv_eq_ediv_of_nonneg a hn

/-- A byte in the row of a page of the buffer has an index inside the buffer (20_memory R44). -/
theorem index_in_range (p : Params) (x q : Int) (hx : 0 ≤ x ∧ x < p.width) (hq : 0 ≤ q ∧ q < p.pages) :
    0 ≤ x + q * p.width ∧ x + q * p.width < p.size := by
  have h1 : (q + 1) * (p.width : Int) ≤ (p.pages : Int) * p.width :=
    mul_le_mul_of_nonneg_right (by omega) (by omega)
  have h2 : 0 ≤ q * (p.width : Int) := mul_nonneg hq.1 (by omega)
  have h3 : ((p.size : Nat) : Int) = (p.pages : Int) * p.width := by simp [Params.size, mul_comm]
  constructor
  · omega
  · rw [h3]; linarith

/-- Different columns and pages of the buffer have different indices (20_memory R39: `pixaddr` is a bijection). -/
theorem index_injective (p : Params) (x y q r : Int) (hx : 0 ≤ x ∧ x < p.width) (hy : 0 ≤ y ∧ y < p.width)
    (h : x + q * p.width = y + r * p.width) : x = y ∧ q = r := by
  have hw : (0 : Int) < p.width := by have := p.width_pos; omega
  have hm : x % (p.width : Int) = y % (p.width : Int) := by
    have := congrArg (· % (p.width : Int)) h
    simpa using this
  rw [Int.emod_eq_of_lt hx.1 hx.2, Int.emod_eq_of_lt hy.1 hy.2] at hm
  refine ⟨hm, ?_⟩
  subst hm
  have : q * (p.width : Int) = r * p.width := by linarith
  exact mul_right_cancel₀ (ne_of_gt hw) this

/-- A pixel inside the physical bounds has an index inside the buffer and a bit in 0..7 (20_memory R39). -/
theorem pixaddr_in_range (p : Params) (q : Int × Int) (h : inPhysical p q = true) :
    (0 ≤ (pixaddr p q).1 ∧ (pixaddr p q).1 < p.size) ∧ (pixaddr p q).2 < 8 := by
  simp only [inPhysical, Bool.and_eq_true, decide_eq_true_eq] at h
  have hh := p.height_eq
  constructor
  · simp only [pixaddr, floorDiv_eq _ _ (by norm_num : (0:Int) ≤ 8)]
    exact index_in_range p _ _ h.1 ⟨by omega, by omega⟩
  · simp only [pixaddr]; omega

/-- Where `setPixel` writes, the target lies inside the buffer. -/
theorem pixelTarget_in_range (p : Params) (r : Orient) (x y : Int) (i : Int) (k : Nat)
    (h : pixelTarget p r x y = some (i, k)) : (0 ≤ i ∧ i < p.size) ∧ k < 8 := by
  unfold pixelTarget at h
  split at h
  · split at h
    · next hp =>
      have := pixaddr_in_range p _ hp
      simp only [Option.some.injEq] at h
      rw [h] at this
      exact this
    · cases h
  · cases h

/-- The physical re-check as inequalities (41_framebuffer R92). -/
theorem inPhysical_iff (p : Params) (q : Int × Int) :
    inPhysical p q = true ↔ (0 ≤ q.1 ∧ q.1 < p.width) ∧ 0 ≤ q.2 ∧ q.2 < p.height := by
  simp [inPhysical]

/-- The logical bounds check as inequalities (41_framebuffer R90). -/
theorem inLogical_iff (p : Params) (r : Orient) (x y : Int) :
    inLogical p r x y = true ↔
      (0 ≤ x ∧ x < (logicalDims p r).1) ∧ 0 ≤ y ∧ y < (logicalDims p r).2 := by
  simp [inLogical]

/-! ## The flush box -/

/-- A page range that is not empty lies inside the buffer (42_flush R104). -/
theorem pages_in_range (p : Params) (y0 y1 q : Int) (h : firstPage y0 ≤ q ∧ q ≤ lastPage p y1) :
    0 ≤ q ∧ q < p.pages := by
  simp only [firstPage, lastPage, floorDiv_eq _ _ (by norm_num : (0:Int) ≤ 8)] at h
  have := p.height_eq
  omega

/-- Columns the flush accepts lie inside the buffer (42_flush R105). -/
theorem columns_in_range (p : Params) (x0 x1 x : Int) (h : badColumns p x0 x1 = false) (hx : x0 ≤ x ∧ x ≤ x1) :
    0 ≤ x ∧ x < p.width := by
  simp only [badColumns, Bool.or_eq_false_iff, Bool.and_eq_false_iff, decide_eq_false_iff_not] at h
  omega

/-- The bytes a flush sends for one page (42_flush R106). -/
def State.pageList (s : State) (c x0 x1 p : Int) : List (Level × Byte) :=
  addressBytes s.par.cmd c p ++ (span x0 x1).map fun x => (.high, s.fb.read (x + p * s.par.width).toNat)

theorem State.pageBytes_ok (s : State) (c x0 x1 p : Int) (hp : 0 ≤ p ∧ p < s.par.pages)
    (hx : badColumns s.par x0 x1 = false) : s.pageBytes c x0 x1 p = .ok (s.pageList c x0 x1 p) := by
  have h := s.memReads_ok ((span x0 x1).map fun x => x + p * s.par.width) (by
    intro i hi
    simp only [List.mem_map, mem_span] at hi
    obtain ⟨x, hx', rfl⟩ := hi
    exact index_in_range _ _ _ (columns_in_range _ _ _ _ hx hx') hp)
  simp [State.pageBytes, h, State.pageList]

/-- The bytes of several pages of the buffer, in order (42_flush R106): no read leaves the buffer. -/
theorem State.pagesBytes_ok (s : State) (c x0 x1 : Int) (ps : List Int) (hp : ∀ p ∈ ps, 0 ≤ p ∧ p < s.par.pages)
    (hx : badColumns s.par x0 x1 = false) :
    s.pagesBytes c x0 x1 ps = .ok (ps.flatMap (s.pageList c x0 x1)) := by
  induction ps with
  | nil => rfl
  | cons p rest ih =>
    simp only [List.forall_mem_cons] at hp
    simp [State.pagesBytes, s.pageBytes_ok c x0 x1 p hp.1 hx, ih hp.2]

/-- What a flush does: nothing, a fault, or the frames of its pages (42_flush R102 to R106, 60_exceptions R134). -/
theorem State.flushBox_cases (s : State) (x0 y0 x1 y1 : Int) :
    (s.dfc ≠ 0 ∧ s.flushBox x0 y0 x1 y1 = .ok s) ∨
    (s.dfc = 0 ∧ firstPage y0 > lastPage s.par y1 ∧ s.flushBox x0 y0 x1 y1 = .ok s) ∨
    (s.dfc = 0 ∧ firstPage y0 ≤ lastPage s.par y1 ∧ badColumns s.par x0 x1 = true ∧
      s.flushBox x0 y0 x1 y1 = .error .flushColumnRange) ∨
    (s.dfc = 0 ∧ firstPage y0 ≤ lastPage s.par y1 ∧ badColumns s.par x0 x1 = false ∧ s.cfg = none ∧
      s.flushBox x0 y0 x1 y1 = .error .noTransport) ∨
    (∃ c, s.dfc = 0 ∧ firstPage y0 ≤ lastPage s.par y1 ∧ badColumns s.par x0 x1 = false ∧ s.cfg = some c ∧
      s.flushBox x0 y0 x1 y1 = .ok (s.emit (frames s.par.spiMode c
        ((span (firstPage y0) (lastPage s.par y1)).flatMap (s.pageList (x0 + c.hoffset) x0 x1))))) := by
  by_cases hd : s.dfc = 0
  · by_cases he : firstPage y0 > lastPage s.par y1
    · exact .inr (.inl ⟨hd, he, by simp [State.flushBox, hd, he]⟩)
    · have he' := not_lt.mp he
      cases hb : badColumns s.par x0 x1 with
      | true => exact .inr (.inr (.inl ⟨hd, he', rfl, by simp [State.flushBox, hd, he, hb]⟩))
      | false =>
        cases hc : s.cfg with
        | none => exact .inr (.inr (.inr (.inl ⟨hd, he', rfl, rfl, by simp [State.flushBox, hd, he, hb, hc]⟩)))
        | some c =>
          refine .inr (.inr (.inr (.inr ⟨c, hd, he', rfl, rfl, ?_⟩)))
          have := s.pagesBytes_ok (x0 + c.hoffset) x0 x1 (span (firstPage y0) (lastPage s.par y1))
            (fun p hp => pages_in_range _ _ _ _ ((mem_span _ _ _).mp hp)) hb
          simp [State.flushBox, hd, he, hb, hc, this, State.send]
  · exact .inl ⟨hd, by simp [State.flushBox, hd]⟩

/-- What `setPixel` does: nothing, or one byte written inside the buffer (41_framebuffer R94). -/
theorem State.setPixelAt_cases (s : State) (x y : Int) (color : Bool) :
    (pixelTarget s.par s.orient x y = none ∧ s.setPixelAt x y color = .ok s) ∨
    (∃ i k, pixelTarget s.par s.orient x y = some (i, k) ∧ (0 ≤ i ∧ i < s.par.size) ∧ k < 8 ∧
      s.setPixelAt x y color = .ok
        (if color then if s.enabled then { s with fb := s.fb.write i.toNat (setBit (s.fb.read i.toNat) k) } else s
         else { s with fb := s.fb.write i.toNat (clearBit (s.fb.read i.toNat) k) })) := by
  cases h : pixelTarget s.par s.orient x y with
  | none => exact .inl ⟨rfl, by simp [State.setPixelAt, h]⟩
  | some ik =>
    obtain ⟨i, k⟩ := ik
    obtain ⟨hi, hk⟩ := pixelTarget_in_range _ _ _ _ _ _ h
    refine .inr ⟨i, k, rfl, hi, hk, ?_⟩
    simp only [State.setPixelAt, h, State.mutatePixel, s.memRead_ok i hi]
    cases color <;> cases he : s.enabled <;> simp [s.memWrite_ok i _ hi, he]

end Sys2Proof.Machine
end

