-- ==== Sys2Proof/Laws/Exec.lean ====
section
/-! SUPPORT. What the instructions of one shape have in common, and what a delivered byte does to the receiver. -/

namespace Sys2Proof.Machine

/-- Emitting on the configured pins is adding the events and letting the receiver take them. -/
theorem State.emit_eq_withEvents (s : State) (c : Cfg) (evs : List Event) (h : s.cfg = some c) :
    s.emit evs = s.withEvents c evs := by
  simp [State.emit, State.withEvents, h]

/-- A byte row runs by sending its byte (30_encoding R65, R67). -/
theorem exec_framed (i : Instr) (x : Level × Byte) (s : State) (h : i.framedByte s.par.cmd = some x) :
    exec i s = s.run (s.send [x]) := by
  cases i <;> simp only [Instr.framedByte, reduceCtorEq, Option.some.injEq] at h <;> subst h <;> rfl

/-- A block whose bytes are delivered does not hold its reset line LOW. -/
theorem State.linkedOn_rst {s : State} {c : Cfg} (h : s.linkedOn c) : (Lines.of c s.trace).rst ≠ some .low := by
  obtain ⟨_, _, h⟩ := h
  simp only [Lines.of]
  cases hr : c.rst with
  | none => simp
  | some p => simp [h p hr]

/-- Setting the whole column pointer sets it. -/
@[simp] theorem Rx.setCol_col (r : Rx) (n : Nat) : (r.setCol n).col = n := by
  simp [Rx.setCol, Rx.col]
  omega

@[simp] theorem Rx.setCol_page (r : Rx) (n : Nat) : (r.setCol n).page = r.page := rfl
@[simp] theorem Rx.setCol_pram (r : Rx) (n : Nat) : (r.setCol n).pram = r.pram := rfl

/-- The last level of a pin that the frames of some bytes do not drive is as it was. -/
theorem lastLevel_frames_other (mode : Fin 4) (c : Cfg) (bs : List (Level × Byte)) (pin : Nat) (h1 : pin ≠ c.cs)
    (h2 : pin ≠ c.cd) : lastLevel (frames mode c bs) pin = none := by
  induction bs with
  | nil => rfl
  | cons x rest ih =>
    have hx : lastLevel (frame mode c x.1 x.2) pin = none := by simp [frame, lastLevel, h1.symm, h2.symm]
    rw [frames, List.flatMap_cons, lastLevel_append, hx, Option.or_none]
    exact ih

end Sys2Proof.Machine
end

