-- ==== Sys2Proof/Laws/Memory.lean ====
section
/-! SUPPORT. Read after write, and the canonical form under every memory operation. -/

namespace Sys2Proof.Machine

theorem Memory.lookup_insert (cells : List Host.Cell) (a : Nat) (b : Byte) (x : Nat) :
    Memory.lookup (Memory.insert cells a b) x = if x = a then some b else Memory.lookup cells x := by
  induction cells with
  | nil => simp [Memory.insert, Memory.lookup]
  | cons kc rest ih =>
    obtain ⟨k, c⟩ := kc
    simp only [Memory.insert]
    split
    · simp [Memory.lookup]
    · split
      · subst a; simp only [Memory.lookup]; split <;> simp_all
      · simp only [Memory.lookup, ih]
        split
        · split
          · omega
          · rfl
        · rfl

theorem Memory.lookup_erase (cells : List Host.Cell) (a x : Nat) :
    Memory.lookup (Memory.erase cells a) x = if x = a then none else Memory.lookup cells x := by
  induction cells with
  | nil => simp [Memory.erase, Memory.lookup]
  | cons kc rest ih =>
    obtain ⟨k, c⟩ := kc
    simp only [Memory.erase]
    split
    · subst a; rw [ih]; simp only [Memory.lookup]; split <;> simp_all
    · simp only [Memory.lookup, ih]
      split
      · split
        · omega
        · rfl
      · rfl

@[simp] theorem Memory.write_draw (m : Memory) (a : Nat) (b : Byte) : (m.write a b).draw = m.draw := by
  unfold Memory.write; split <;> rfl

@[simp] theorem Memory.write_unlisted (m : Memory) (a : Nat) (b : Byte) : (m.write a b).unlisted = m.unlisted := by
  simp [Memory.unlisted]

/-- What every address reads as after a write: the byte written there, and what it read as before elsewhere. -/
theorem Memory.read_write (m : Memory) (a x : Nat) (b : Byte) :
    (m.write a b).read x = if x = a then b else m.read x := by
  unfold Memory.write
  split
  · next h =>
    by_cases hx : x = a
    · cases hd : m.draw <;> simp [Memory.unlisted, hd] at h
      simp [Memory.read, Memory.lookup_erase, hx, h]
    · simp [Memory.read, Memory.lookup_erase, hx]
  · by_cases hx : x = a <;> simp [Memory.read, Memory.lookup_insert, hx]

@[simp] theorem Memory.read_write_same (m : Memory) (a : Nat) (b : Byte) : (m.write a b).read a = b := by
  simp [Memory.read_write]

theorem Memory.read_write_other (m : Memory) {a x : Nat} (b : Byte) (h : x ≠ a) :
    (m.write a b).read x = m.read x := by
  simp [Memory.read_write, h]

@[simp] theorem Memory.zeroed_read (a : Nat) : Memory.zeroed.read a = 0 := rfl

@[simp] theorem Memory.drawn_read (k a : Nat) : (Memory.drawn k).read a = Config.freeByte k a := rfl

/-! ## The canonical form -/

theorem Memory.cellsOk_cons (u : Option Byte) (lo : Option Nat) (k : Nat) (b : Byte) (rest : List Host.Cell) :
    Memory.cellsOk u lo ((k, b) :: rest) = true ↔
      (∀ l, lo = some l → l < k) ∧ u ≠ some b ∧ Memory.cellsOk u (some k) rest = true := by
  cases lo <;> simp [Memory.cellsOk, and_assoc]

theorem Memory.cellsOk_lower (u : Option Byte) {lo : Option Nat} {k : Nat} {cells : List Host.Cell}
    (h : Memory.cellsOk u (some k) cells = true) (hlo : ∀ l, lo = some l → l ≤ k) :
    Memory.cellsOk u lo cells = true := by
  cases cells with
  | nil => rfl
  | cons kc rest =>
    obtain ⟨j, c⟩ := kc
    rw [Memory.cellsOk_cons] at h ⊢
    exact ⟨fun l hl => lt_of_le_of_lt (hlo l hl) (h.1 k rfl), h.2⟩

theorem Memory.cellsOk_insert (u : Option Byte) (cells : List Host.Cell) (a : Nat) (b : Byte) (hb : u ≠ some b) :
    ∀ lo : Option Nat, (∀ l, lo = some l → l < a) → Memory.cellsOk u lo cells = true →
      Memory.cellsOk u lo (Memory.insert cells a b) = true := by
  induction cells with
  | nil => intro lo hlo _; simp only [Memory.insert]; rw [Memory.cellsOk_cons]; exact ⟨hlo, hb, rfl⟩
  | cons kc rest ih =>
    obtain ⟨k, c⟩ := kc
    intro lo hlo h
    rw [Memory.cellsOk_cons] at h
    obtain ⟨h1, h2, h3⟩ := h
    simp only [Memory.insert]
    split
    · next hak =>
      rw [Memory.cellsOk_cons, Memory.cellsOk_cons]
      exact ⟨hlo, hb, fun l hl => by cases hl; exact hak, h2, h3⟩
    · split
      · next hak => subst hak; rw [Memory.cellsOk_cons]; exact ⟨hlo, hb, h3⟩
      · rw [Memory.cellsOk_cons]
        exact ⟨h1, h2, ih (some k) (fun l hl => by cases hl; omega) h3⟩

theorem Memory.cellsOk_erase (u : Option Byte) (cells : List Host.Cell) (a : Nat) :
    ∀ lo : Option Nat, Memory.cellsOk u lo cells = true → Memory.cellsOk u lo (Memory.erase cells a) = true := by
  induction cells with
  | nil => intro lo _; rfl
  | cons kc rest ih =>
    obtain ⟨k, c⟩ := kc
    intro lo h
    rw [Memory.cellsOk_cons] at h
    obtain ⟨h1, h2, h3⟩ := h
    simp only [Memory.erase]
    split
    · exact ih lo (Memory.cellsOk_lower u h3 fun l hl => le_of_lt (h1 l hl))
    · rw [Memory.cellsOk_cons]; exact ⟨h1, h2, ih (some k) h3⟩

theorem Memory.insert_below (cells : List Host.Cell) (a : Nat) (b : Byte) (size : Nat) (ha : a < size)
    (h : ∀ c ∈ cells, c.1 < size) : ∀ c ∈ Memory.insert cells a b, c.1 < size := by
  induction cells with
  | nil => simpa [Memory.insert] using ha
  | cons kc rest ih =>
    obtain ⟨k, c⟩ := kc
    simp only [List.forall_mem_cons] at h
    simp only [Memory.insert]
    split
    · simpa using ⟨ha, h.1, fun x y hxy => h.2 (x, y) hxy⟩
    · split
      · simpa using ⟨ha, fun x y hxy => h.2 (x, y) hxy⟩
      · simp only [List.forall_mem_cons]; exact ⟨h.1, ih h.2⟩

theorem Memory.erase_below (cells : List Host.Cell) (a : Nat) (size : Nat) (h : ∀ c ∈ cells, c.1 < size) :
    ∀ c ∈ Memory.erase cells a, c.1 < size := by
  induction cells with
  | nil => simp [Memory.erase]
  | cons kc rest ih =>
    obtain ⟨k, c⟩ := kc
    simp only [List.forall_mem_cons] at h
    simp only [Memory.erase]
    split
    · exact ih h.2
    · simp only [List.forall_mem_cons]; exact ⟨h.1, ih h.2⟩

/-- A write inside the memory keeps the canonical form. -/
theorem Memory.write_wf (size : Nat) (m : Memory) (a : Nat) (b : Byte) (ha : a < size) (h : m.wf size = true) :
    (m.write a b).wf size = true := by
  simp only [Memory.wf, Bool.and_eq_true, List.all_eq_true, decide_eq_true_eq, Memory.write_unlisted] at h ⊢
  unfold Memory.write
  split
  · exact ⟨Memory.cellsOk_erase _ _ _ _ h.1, Memory.erase_below _ _ _ h.2⟩
  · next hb => exact ⟨Memory.cellsOk_insert _ _ _ _ hb _ (by simp) h.1, Memory.insert_below _ _ _ _ ha h.2⟩

/-- A cleared memory has the canonical form. -/
@[simp] theorem Memory.zeroed_wf (size : Nat) : Memory.zeroed.wf size = true := rfl

/-- A drawn memory has the canonical form. -/
@[simp] theorem Memory.drawn_wf (size k : Nat) : (Memory.drawn k).wf size = true := rfl

/-- Both memories of a block just constructed have the canonical form. -/
theorem State.reset_memory_wf (size : Nat) : State.reset.fb.wf size = true ∧ State.reset.rx.pram.wf size = true :=
  ⟨rfl, rfl⟩

end Sys2Proof.Machine
end

