-- ==== Sys2Proof/Laws/PerInstr.lean ====
section
/-! SUPPORT. Per instruction: a command byte's encoding fits its row of the command table (30_encoding R70), whatever
its field. -/

namespace Sys2Proof

/-- The row of 30_encoding R70 an instruction is an instance of; none for the others. -/
def Instr.row (c : CommandBytes) : Instr → Option Pattern
  | .cmdColLsb _ => some c.patColLsb
  | .cmdColMsb _ => some c.patColMsb
  | .cmdResistor _ => some c.patResistor
  | .cmdPower _ => some c.patPower
  | .cmdScroll _ => some c.patScroll
  | .cmdEv => some patEv
  | .cmdSeg _ => some c.patSeg
  | .cmdBias _ => some c.patBias
  | .cmdAllpix => some c.patAllpix
  | .cmdInverse _ => some c.patInverse
  | .cmdDisplay _ => some c.patDisplay
  | .cmdPage _ => some c.patPage
  | .cmdCom _ => some c.patCom
  | .cmdSysreset => some c.patSysreset
  | .cmdApc => some c.patApc
  | .beginOp .. | .clear | .setPixel .. | .setEnabled _ | .setContrast _ | .setResistor _ | .setInverted _
  | .flush .. | .setOrientation _ | .sendCommand _ | .sendData _ | .evValue _ | .apcValue _ | .displayData _ => none

namespace Laws.TableRow

/-- An instruction with a row is written as a command byte that fits that row, for all legal command bytes. -/
def Statement (i : Instr) : Prop :=
  ∀ c : CommandBytes, c.legal = true → ∀ p, i.row c = some p →
    ∃ b, i.framedByte c = some (.low, b) ∧ encode c i = .byte .low b ∧ p.fits b = true

theorem of_no_row (i : Instr) (h : ∀ c, i.row c = none) : Statement i := by
  intro c _ p hp; rw [h c] at hp; cases hp

theorem of_row (i : Instr) (q : CommandBytes → Pattern) (b : CommandBytes → Byte) (hq : ∀ c, i.row c = some (q c))
    (hb : ∀ c, i.framedByte c = some (.low, b c)) (he : ∀ c, encode c i = .byte .low (b c))
    (hf : ∀ c : CommandBytes, c.legal = true → (q c).fits (b c) = true) : Statement i := by
  intro c hc p hp; rw [hq c] at hp; cases hp; exact ⟨b c, hb c, he c, hf c hc⟩

theorem beginOp (t : Bool) (clk cs cd : Nat) (rst : Option Nat) (xf yf : Bool) :
    Statement (.beginOp t clk cs cd rst xf yf) := of_no_row _ fun _ => rfl
theorem clear : Statement .clear := of_no_row _ fun _ => rfl
theorem setPixel (x y : BitVec 16) (c : Bool) : Statement (.setPixel x y c) := of_no_row _ fun _ => rfl
theorem setEnabled (on : Bool) : Statement (.setEnabled on) := of_no_row _ fun _ => rfl
theorem setContrast (v : Byte) : Statement (.setContrast v) := of_no_row _ fun _ => rfl
theorem setResistor (v : Nat) : Statement (.setResistor v) := of_no_row _ fun _ => rfl
theorem setInverted (on : Bool) : Statement (.setInverted on) := of_no_row _ fun _ => rfl
theorem flush (x0 y0 x1 y1 : BitVec 16) : Statement (.flush x0 y0 x1 y1) := of_no_row _ fun _ => rfl
theorem setOrientation (r : Nat) : Statement (.setOrientation r) := of_no_row _ fun _ => rfl
theorem sendCommand (b : Byte) : Statement (.sendCommand b) := of_no_row _ fun _ => rfl
theorem sendData (b : Byte) : Statement (.sendData b) := of_no_row _ fun _ => rfl

theorem cmdColLsb (l : BitVec 4) : Statement (.cmdColLsb l) :=
  of_row _ (·.patColLsb) (colLsbByte · l) (fun _ => rfl) (fun _ => rfl) (fun _ => rfl) fun _ h' => fits_colLsb h' l
theorem cmdColMsb (h : BitVec 4) : Statement (.cmdColMsb h) :=
  of_row _ (·.patColMsb) (colMsbByte · h) (fun _ => rfl) (fun _ => rfl) (fun _ => rfl) fun _ h' => fits_colMsb h' h
theorem cmdResistor (r : BitVec 3) : Statement (.cmdResistor r) :=
  of_row _ (·.patResistor) (resistorByte · r) (fun _ => rfl) (fun _ => rfl) (fun _ => rfl) fun _ h' => fits_resistor h' r
theorem cmdPower (p : BitVec 3) : Statement (.cmdPower p) :=
  of_row _ (·.patPower) (powerByte · p) (fun _ => rfl) (fun _ => rfl) (fun _ => rfl) fun _ h' => fits_power h' p
theorem cmdScroll (s : BitVec 6) : Statement (.cmdScroll s) :=
  of_row _ (·.patScroll) (scrollByte · s) (fun _ => rfl) (fun _ => rfl) (fun _ => rfl) fun _ h' => fits_scroll h' s
theorem cmdEv : Statement .cmdEv :=
  of_row _ (fun _ => patEv) (fun _ => Config.cmdEv) (fun _ => rfl) (fun _ => rfl) (fun _ => rfl) fun _ _ => by decide
theorem cmdSeg (m : Bool) : Statement (.cmdSeg m) :=
  of_row _ (·.patSeg) (segByte · m) (fun _ => rfl) (fun _ => rfl) (fun _ => rfl) fun _ h' => fits_seg h' m
theorem cmdBias (b : Bool) : Statement (.cmdBias b) :=
  of_row _ (·.patBias) (biasByte · b) (fun _ => rfl) (fun _ => rfl) (fun _ => rfl) fun _ h' => fits_bias h' b
theorem cmdAllpix : Statement .cmdAllpix :=
  of_row _ (·.patAllpix) (·.allpix) (fun _ => rfl) (fun _ => rfl) (fun _ => rfl) fun _ h' => fits_allpix h'
theorem cmdInverse (i : Bool) : Statement (.cmdInverse i) :=
  of_row _ (·.patInverse) (inverseByte · i) (fun _ => rfl) (fun _ => rfl) (fun _ => rfl) fun _ h' => fits_inverse h' i
theorem cmdDisplay (d : Bool) : Statement (.cmdDisplay d) :=
  of_row _ (·.patDisplay) (displayByte · d) (fun _ => rfl) (fun _ => rfl) (fun _ => rfl) fun _ h' => fits_display h' d
theorem cmdPage (p : BitVec 4) : Statement (.cmdPage p) :=
  of_row _ (·.patPage) (pageByte · p) (fun _ => rfl) (fun _ => rfl) (fun _ => rfl) fun _ h' => fits_page h' p
theorem cmdCom (m : Bool) : Statement (.cmdCom m) :=
  of_row _ (·.patCom) (comByte · m) (fun _ => rfl) (fun _ => rfl) (fun _ => rfl) fun _ h' => fits_com h' m
theorem cmdSysreset : Statement .cmdSysreset :=
  of_row _ (·.patSysreset) (·.sysreset) (fun _ => rfl) (fun _ => rfl) (fun _ => rfl) fun _ h' => fits_sysreset h'
theorem cmdApc : Statement .cmdApc :=
  of_row _ (·.patApc) (·.apc) (fun _ => rfl) (fun _ => rfl) (fun _ => rfl) fun _ h' => fits_apc h'
theorem evValue (v : BitVec 6) : Statement (.evValue v) := of_no_row _ fun _ => rfl
theorem apcValue (a : Byte) : Statement (.apcValue a) := of_no_row _ fun _ => rfl
theorem displayData (d : Byte) : Statement (.displayData d) := of_no_row _ fun _ => rfl

end Laws.TableRow

end Sys2Proof
end

