-- ==== Sys2Proof/Tests/Slice0.lean ====
section
/-! SUPPORT. Tests: expected results are those of spec/95_test_vectors.md (S1 to S9, V1 to V62) or written out from
30_encoding; and, for each statement with hypotheses, a concrete state and operands that meet them. -/

namespace Sys2Proof.Tests

open Sys2Proof Sys2Proof.Machine

/-! ## Small states -/

/-- The default command bytes, which the test vectors are written in. -/
def cmds : CommandBytes := Config.commands

/-- Other legal command bytes (30_encoding R70: they are parameters). -/
def otherCmds : CommandBytes := { Config.commands with colMsb := 0x30, page := 0xD0, apc := 0xF8 }

/-- The described instance with one choice of the open parameters. -/
def tPar : Params :=
  { geom := Config.geometry, cmd := cmds, spiMode := 3, bias := true, initResistor := 5, initContrast := 20,
    apcValue := 0x93, cooldown2 := 3, extraCols := 30, extraPages := 1 }

/-- The configuration of `begin T, 4000000, 10, 9, 8, 0, 0`. -/
def tCfg : Cfg := ⟨4000000, 10, 9, some 8, false, false, 0⟩

/-- The same without a reset pin. -/
def tCfgNoRst : Cfg := ⟨4000000, 10, 9, none, false, false, 0⟩

def tRx : Rx := { pram := Memory.drawn 1, colHi := 2, colLo := 5, page := 3, argNext := false, draws := 7 }

/-- A block that has not begun, its draws replaced by concrete values. -/
def tOff : State :=
  { State.construct tPar with fb := Memory.zeroed, orient := .deg0, enabled := false, dfc := 0, rx := tRx }

/-- A block that has begun, its lines as 43_controller R119 leaves them, its history cut short. -/
def tOn : State :=
  { tOff with
    enabled := true, ctl := .enabled, cfg := some tCfg,
    trace := [.pinLevel 8 .high, .pinLevel 10 .high, .pinLevel 9 .low] }

def tOnNoRst : State := { tOn with cfg := some tCfgNoRst }

/-- A block held in reset. -/
def tHeld : State := { tOn with enabled := false, ctl := .disabled, trace := [.pinLevel 8 .low] }

/-- A small block with a byte in its buffer. -/
def tSmall : State :=
  { tOn with
    par := { tPar with geom := ⟨2, 16, by decide⟩, extraCols := 0, extraPages := 0 }
    fb := ⟨none, [(0, 0x5A), (3, 0xC3)]⟩ }

/-- A field of the state an instruction reaches; none where it stops. -/
def after {α : Type} (i : Instr) (s : State) (f : State → α) : Option α :=
  match exec i s with
  | .next t => some (f t)
  | .fault _ => none
  | .refused _ => none

/-- The bytes an instruction puts on the bus. -/
def sent (i : Instr) (s : State) : Option (List (Level × Byte)) :=
  after i s fun t => bytesOf 9 (t.trace.drop s.trace.length)

/-- The number of events an instruction emits. -/
def events (i : Instr) (s : State) : Option Nat := after i s fun t => t.trace.length - s.trace.length

/-! ## Decoding: words written out from 30_encoding R60, R70 and 95_test_vectors section 3 -/

theorem test_decode_begin : decode cmds none (.call 0 [.transport, .num 1000000, .num 10, .num 9, .absent, .num 1, .num 1])
    = .ok (.beginOp true 1000000 10 9 none true true) := by decide
theorem test_decode_begin_none : decode cmds none (.call 0 [.absent, .num 4000000, .num 10, .num 9, .num 8, .num 0, .num 0])
    = .ok (.beginOp false 4000000 10 9 (some 8) false false) := by decide
theorem test_decode_clear : decode cmds none (.call 1 []) = .ok .clear := by decide
theorem test_decode_setPixel : decode cmds none (.call 2 [.num 9, .num 10, .num 1]) = .ok (.setPixel 9 10 true) := by decide
theorem test_decode_setPixel_least :
    decode cmds none (.call 2 [.num (-32768), .num 5, .num 1]) = .ok (.setPixel 0x8000 5 true) := by decide
theorem test_decode_setEnabled : decode cmds none (.call 3 [.num 0]) = .ok (.setEnabled false) := by decide
theorem test_decode_setContrast : decode cmds none (.call 4 [.num 70]) = .ok (.setContrast 70) := by decide
theorem test_decode_setContrast_range : decode cmds none (.call 4 [.num 256]) = .error (.badArguments 4) := by decide
theorem test_decode_setResistor : decode cmds none (.call 5 [.num 9]) = .ok (.setResistor 9) := by decide
theorem test_decode_setInverted : decode cmds none (.call 6 [.num 1]) = .ok (.setInverted true) := by decide
theorem test_decode_flush :
    decode cmds none (.call 7 [.num 0, .num (-8), .num 101, .num (-1)]) = .ok (.flush 0 0xFFF8 101 0xFFFF) := by decide
theorem test_decode_setOrientation : decode cmds none (.call 8 [.num 2]) = .ok (.setOrientation 2) := by decide
theorem test_decode_no_selector : decode cmds none (.call 9 []) = .error (.noSuchOperation 9) := by decide
theorem test_decode_sendCommand : decode cmds none (.prim .low 0xAF) = .ok (.sendCommand 0xAF) := by decide
theorem test_decode_sendData : decode cmds none (.prim .high 0x06) = .ok (.sendData 0x06) := by decide
theorem test_decode_colLsb : decode cmds none (.byte .low 0b00001111) = .ok (.cmdColLsb 15) := by decide
theorem test_decode_colMsb : decode cmds none (.byte .low 0b00010110) = .ok (.cmdColMsb 6) := by decide
theorem test_decode_resistor : decode cmds none (.byte .low 0b00100101) = .ok (.cmdResistor 5) := by decide
theorem test_decode_power : decode cmds none (.byte .low 0b00101111) = .ok (.cmdPower 7) := by decide
theorem test_decode_scroll : decode cmds none (.byte .low 0b01000000) = .ok (.cmdScroll 0) := by decide
theorem test_decode_ev : decode cmds none (.byte .low 0b10000001) = .ok .cmdEv := by decide
theorem test_decode_seg : decode cmds none (.byte .low 0b10100001) = .ok (.cmdSeg true) := by decide
theorem test_decode_bias : decode cmds none (.byte .low 0b10100011) = .ok (.cmdBias true) := by decide
theorem test_decode_allpix : decode cmds none (.byte .low 0b10100100) = .ok .cmdAllpix := by decide
theorem test_decode_inverse : decode cmds none (.byte .low 0b10100111) = .ok (.cmdInverse true) := by decide
theorem test_decode_display : decode cmds none (.byte .low 0b10101110) = .ok (.cmdDisplay false) := by decide
theorem test_decode_page : decode cmds none (.byte .low 0b10110111) = .ok (.cmdPage 7) := by decide
theorem test_decode_com : decode cmds none (.byte .low 0b11001000) = .ok (.cmdCom true) := by decide
theorem test_decode_sysreset : decode cmds none (.byte .low 0b11100010) = .ok .cmdSysreset := by decide
theorem test_decode_apc : decode cmds none (.byte .low 0b11111010) = .ok .cmdApc := by decide
theorem test_decode_evValue : decode cmds (some (.low, 0x81)) (.byte .high 0b00111111) = .ok (.evValue 63) := by decide
theorem test_decode_apcValue : decode cmds (some (.low, 0xFA)) (.byte .high 0x93) = .ok (.apcValue 0x93) := by decide
theorem test_decode_displayData : decode cmds (some (.low, 0xB1)) (.byte .high 0x81) = .ok (.displayData 0x81) := by decide
/-- 30_encoding R72: the value byte has bits 7 and 6 clear. -/
theorem test_decode_value_high_bits :
    decode cmds (some (.low, 0x81)) (.byte .high 0x46) = .error (.badValueByte 0x46) := by decide
theorem test_decode_no_command : decode cmds none (.byte .low 0xA5) = .error (.noSuchCommand 0xA5) := by decide
/-- V56: `setContrast 0` sends `C 81, D 00`; read back as 30_encoding R82 reads a stream. -/
theorem test_decode_stream :
    decodeStream cmds none [(.low, 0x81), (.high, 0x00), (.low, 0xB1), (.high, 0x04)]
      = .ok [.cmdEv, .evValue 0, .cmdPage 1, .displayData 0x04] := by decide
/-- R70: with other command bytes a flush sends them, they are read back as the same commands, and the receiver knows
them. -/
theorem test_other_commands :
    sent (.flush 0 8 1 15) { tSmall with par := { tSmall.par with cmd := otherCmds } } = some
      [(.low, 0x30), (.low, 0x00), (.low, 0xD1), (.high, 0x00), (.high, 0xC3)] ∧
    decodeStream otherCmds none [(.low, 0x30), (.low, 0x00), (.low, 0xD1), (.low, 0xF8), (.high, 0x93)]
      = .ok [.cmdColMsb 0, .cmdColLsb 0, .cmdPage 1, .cmdApc, .apcValue 0x93] ∧
    after (.sendCommand 0xD7) { tOn with par := { tPar with cmd := otherCmds } } (fun t => t.rx.page) = some 7 := by
  decide
theorem test_table_word : decodeTableWord 8 0xE2 = some .cmdSysreset ∧ decodeTableWord 8 8 = some (.setOrientation 0) := by
  decide

/-! ## Well-formedness: 30_encoding R70's column "bytes the block sends" -/

theorem test_wf_scroll : (Instr.cmdScroll 1).wf = false ∧ (Instr.cmdScroll 0).wf = true := by decide
theorem test_wf_power :
    (Instr.cmdPower 3).wf = false ∧ (Instr.cmdPower 0).wf = true ∧ (Instr.cmdPower 7).wf = true := by decide
/-- 00_scope R7: a width of 0, a height of 65 and a height of 136 are no geometries. -/
theorem test_geometry :
    buildGeometry 0 64 = .error .badGeometry ∧ buildGeometry 102 65 = .error .badGeometry ∧
    buildGeometry 102 136 = .error .badGeometry ∧ buildGeometry 102 64 = .ok Config.geometry := by decide
/-- 60_exceptions R131 and 10_state R22. -/
theorem test_numbers : faultNumber .noTransport = 16 ∧ faultNumber .badArgument = 19 ∧ diagNumber .cfgNoTransport = 1 ∧
    ctlNumber .disabled = 3 := by decide

/-! ## The protocol layer -/

/-- V1. -/
theorem test_sendCommand : after (.sendCommand 0xAF) tOn (fun t => t.trace.drop 3) = some
    [.pinLevel 9 .low, .beginTx 4000000 3, .pinLevel 10 .low, .xfer 0xAF, .pinLevel 10 .high, .endTx] := by decide
/-- V2. -/
theorem test_sendData : after (.sendData 0x06) tOn (fun t => t.trace.drop 3) = some
    [.pinLevel 9 .high, .beginTx 4000000 3, .pinLevel 10 .low, .xfer 0x06, .pinLevel 10 .high, .endTx] := by decide
/-- V4. -/
theorem test_send_no_transport :
    after (.sendData 0) tOff (fun t => (t.fault, t.trace)) = some (some .noTransport, []) := by decide
/-- V5. -/
theorem test_lines_after_command :
    after (.sendCommand 0xAF) tOn (fun t => (lineLevel t.trace 10, lineLevel t.trace 9)) = some (.high, .low) := by decide
/-- V6. -/
theorem test_wire_bits : wireBits 0xA6 = [true, false, true, false, false, true, true, false] := by decide

/-! ## The framebuffer -/

/-- S1, V8, V20, V23: one coordinate in each orientation. -/
theorem test_setPixel_orientations :
    after (.setPixel 0 0 true) { tOn with orient := .deg90 } (fun t => t.fb.cells) = some [(63, 0x01)] ∧
    after (.setPixel 9 10 true) tOn (fun t => t.fb.cells) = some [(111, 0x04)] ∧
    after (.setPixel 10 20 true) { tOn with orient := .deg180 } (fun t => t.fb.cells) = some [(601, 0x08)] ∧
    after (.setPixel 63 101 true) { tOn with orient := .deg270 } (fun t => t.fb.cells) = some [(509, 0x40)] := by decide
/-- V10, V16, V22: nothing is written; V11, V12, V13: the flag gates on and not off. -/
theorem test_setPixel_checks :
    after (.setPixel 102 0 true) tOn (fun t => t.fb.cells) = some [] ∧
    after (.setPixel 0 70 true) { tOn with orient := .deg90 } (fun t => t.fb.cells) = some [] ∧
    after (.setPixel 37 0 true) { tOn with orient := .deg270 } (fun t => t.fb.cells) = some [] ∧
    after (.setPixel 0 3 false) { tOn with fb := ⟨none, [(0, 0xFF)]⟩ } (fun t => t.fb.cells) = some [(0, 0xF7)] ∧
    after (.setPixel 0 0 false) { tOff with fb := ⟨none, [(0, 0x01)]⟩ } (fun t => t.fb.cells) = some [] ∧
    after (.setPixel 0 0 true) tOff (fun t => t.fb.cells) = some [] := by decide
/-- V24, V25. -/
theorem test_setOrientation :
    after (.setOrientation 4) tOn (fun t => (t.fault, t.orient)) = some (some .badArgument, .deg0) ∧
    after (.setOrientation 2) tSmall (fun t => (t.orient, t.fb)) = some (.deg180, tSmall.fb) := by decide
/-- V26, S2. -/
theorem test_clear :
    after .clear { tSmall with dfc := 5 } (fun t => (t.fb, t.dfc, t.trace)) = some (Memory.zeroed, 0, tSmall.trace) := by
  decide

/-! ## Flush -/

/-- V28, S9, V30; and 42_flush R106 on a buffer of two pages and two columns: page by page, column by column. -/
theorem test_flush_bytes :
    sent (.flush 0 8 15 15) { tOn with fb := ⟨none, [(111, 0x04)]⟩ } = some
      ([(.low, 0x10), (.low, 0x00), (.low, 0xB1)] ++ List.replicate 9 (.high, 0x00) ++ [(.high, 0x04)]
        ++ List.replicate 6 (.high, 0x00)) ∧
    sent (.flush 101 0 0 7) tOn = some [(.low, 0x16), (.low, 0x05), (.low, 0xB0)] ∧
    sent (.flush 0 0 1 15) tSmall = some
      [(.low, 0x10), (.low, 0x00), (.low, 0xB0), (.high, 0x5A), (.high, 0x00),
        (.low, 0x10), (.low, 0x00), (.low, 0xB1), (.high, 0x00), (.high, 0xC3)] := by decide
/-- V35, V37, S4: no event, no fault; V38, V39, V40, V42: the faults. -/
theorem test_flush_checks :
    after (.flush 0 0xFFF8 101 0xFFFF) tOff (fun t => (t.fault, t.trace)) = some (none, []) ∧
    events (.flush 0 20 101 10) tOn = some 0 ∧ events (.flush 0 0 101 63) { tOn with dfc := 3 } = some 0 ∧
    after (.flush 102 0 102 7) tOn (fun t => t.fault) = some (some .flushColumnRange) ∧
    after (.flush 0xFFFF 0 5 7) tOn (fun t => t.fault) = some (some .flushColumnRange) ∧
    after (.flush 5 0 200 7) tOn (fun t => t.fault) = some (some .flushColumnRange) ∧
    after (.flush 0 0 101 63) tOff (fun t => t.fault) = some (some .noTransport) := by decide

/-! ## The controller -/

/-- V45. -/
theorem test_begin : sent (.beginOp true 4000000 10 9 (some 8) false false) tOff = some
    [(.low, 0xE2), (.low, 0xAE), (.low, 0x40), (.low, 0xA0), (.low, 0xC0), (.low, 0xA4), (.low, 0xA6), (.low, 0xA3),
      (.low, 0x2F), (.low, 0x25), (.low, 0x81), (.high, 20), (.low, 0xFA), (.high, 0x93), (.low, 0xA4), (.low, 0xAF)] ∧
    events (.beginOp true 4000000 10 9 (some 8) false false) tOff = some 107 := by decide
/-- V47, V48, V49, V50. -/
theorem test_begin_refused :
    after (.beginOp false 4000000 10 9 (some 8) false false) tOff (fun t => (t.diag, t.fault, t.ctl))
      = some ([.cfgNoTransport], none, .uninit) ∧
    after (.beginOp false 4000000 10 9 (some 8) false false) tOn (fun t => t.fault) = some (some .rebeginNoTransport) ∧
    after (.beginOp true 4000000 10 10 (some 8) false false) tOff (fun t => t.fault) = some (some .badPinConfig) ∧
    after (.beginOp true 4000000 10 9 (some 9) false false) tOff (fun t => t.fault) = some (some .badPinConfig) := by
  decide
/-- V51. -/
theorem test_disable : after (.setEnabled false) tOn (fun t => (t.trace.drop 3, t.enabled, t.ctl)) = some
    ([.pinLevel 9 .low, .beginTx 4000000 3, .pinLevel 10 .low, .xfer 0x28, .pinLevel 10 .high, .endTx, .delay 10,
      .pinLevel 9 .low, .beginTx 4000000 3, .pinLevel 10 .low, .xfer 0xAE, .pinLevel 10 .high, .endTx,
      .pinLevel 8 .low, .pinLevel 10 .low, .pinLevel 9 .low, .delay 1], false, .disabled) := by decide
/-- V54. -/
theorem test_enable : events (.setEnabled true) tHeld = some 107 ∧
    after (.setEnabled true) { tHeld with fb := ⟨none, [(0, 1)]⟩ } (fun t => (t.fb, t.ctl)) = some (Memory.zeroed, .enabled) := by
  decide
/-- S6, V56. -/
theorem test_setContrast : sent (.setContrast 70) tOn = some [(.low, 0x81), (.high, 0x06)] ∧
    sent (.setContrast 255) tOn = some [(.low, 0x81), (.high, 0x3F)] := by decide
/-- V57, V58, V59. -/
theorem test_setResistor : sent (.setResistor 5) tOn = some [(.low, 0x25)] ∧
    after (.setResistor 8) tOn (fun t => t.fault) = some (some .badArgument) ∧
    after (.setResistor 8) tOff (fun t => t.fault) = some (some .badArgument) := by decide
/-- V60. -/
theorem test_setInverted :
    sent (.setInverted true) tOn = some [(.low, 0xA7)] ∧ sent (.setInverted false) tOn = some [(.low, 0xA6)] := by decide

/-! ## The receiver (20_memory R49 to R56) -/

/-- R50: from column 0x25, the high nibble 6 gives 0x65 and the low nibble 6 gives 0x26. -/
theorem test_receiver_column :
    after (.cmdColMsb 6) tOn (fun t => t.rx.col) = some 0x65 ∧ after (.cmdColLsb 6) tOn (fun t => t.rx.col) = some 0x26 := by
  decide
/-- R51. -/
theorem test_receiver_page : after (.cmdPage 7) tOn (fun t => (t.rx.page, t.rx.col)) = some (7, 0x25) := by decide
/-- R52: page 3, column 0x25 of 132 columns is address 433; the column steps on. -/
theorem test_receiver_data : after (.displayData 0xA5) tOn (fun t => (t.rx.pram.cells, t.rx.col)) = some ([(433, 0xA5)], 0x26) := by
  decide
/-- R53: the value byte is an argument and is not stored as data. -/
theorem test_receiver_argument : after .cmdEv tOn (fun t => t.rx.argNext) = some true ∧
    after (.evValue 6) { tOn with rx := { tRx with argNext := true } } (fun t => t.rx.argNext) = some false := by decide
/-- R54: only system reset makes the display RAM a draw. -/
theorem test_receiver_other :
    after .cmdSysreset tOn (fun t => t.rx.pram.draw) = some (some 7) ∧
    after (.cmdDisplay true) tOn (fun t => t.rx.pram.draw) = some (some 1) := by decide
/-- R55: nothing arrives while the reset line is LOW. -/
theorem test_receiver_held : after (.cmdPage 7) tHeld (fun t => t.rx.page) = some 3 := by decide

/-! ## The transcriber (30_encoding R80, R81; 95_test_vectors section 3) -/

theorem test_transcribe_flush : transcribe tPar ['f', 'l', 'u', 's', 'h', '\n']
    = .ok [.call 7 [.num 0, .num 0, .num 101, .num 63]] := by decide
/-- A line outside the grammar, also before a last line with no new line (log 18). -/
theorem test_transcribe_refuses : transcribe tPar ['c', 'l', 'e', 'a', 'r', '\n', 'x', '\n'] = .error 2 ∧
    transcribe tPar ['x', '\n', 'c', 'l', 'e', 'a', 'r'] = .error 1 ∧
    transcribe tPar ['c', 'l', 'e', 'a', 'r'] = .error 1 := by decide

/-! ## Byte rows: the byte each instruction sends (30_encoding R70) -/

theorem test_bytes_fields : sent (.cmdColLsb 5) tOn = some [(.low, 0x05)] ∧ sent (.cmdColMsb 6) tOn = some [(.low, 0x16)] ∧
    sent (.cmdResistor 7) tOn = some [(.low, 0x27)] ∧ sent (.cmdPower 7) tOn = some [(.low, 0x2F)] ∧
    sent (.cmdScroll 0) tOn = some [(.low, 0x40)] ∧ sent (.cmdPage 7) tOn = some [(.low, 0xB7)] := by decide
theorem test_bytes_bits : sent (.cmdSeg true) tOn = some [(.low, 0xA1)] ∧ sent (.cmdBias true) tOn = some [(.low, 0xA3)] ∧
    sent (.cmdInverse true) tOn = some [(.low, 0xA7)] ∧ sent (.cmdDisplay true) tOn = some [(.low, 0xAF)] ∧
    sent (.cmdCom true) tOn = some [(.low, 0xC8)] := by decide
theorem test_bytes_fixed : sent .cmdEv tOn = some [(.low, 0x81)] ∧ sent .cmdAllpix tOn = some [(.low, 0xA4)] ∧
    sent .cmdSysreset tOn = some [(.low, 0xE2)] ∧ sent .cmdApc tOn = some [(.low, 0xFA)] := by decide
theorem test_bytes_data : sent (.evValue 6) tOn = some [(.high, 0x06)] ∧ sent (.apcValue 0x93) tOn = some [(.high, 0x93)] ∧
    sent (.displayData 0x04) tOn = some [(.high, 0x04)] := by decide

/-! ## Witnesses: for each statement with hypotheses, a state and operands that meet them -/

/-- The block with calls still to come. -/
def tCalls (items : List Item) : State := { tOff with input := items }

theorem tOn_linked : tOn.linkedOn tCfg := ⟨rfl, rfl, by intro pin h; cases h; rfl⟩
theorem tOnNoRst_linked : tOnNoRst.linkedOn tCfgNoRst := ⟨rfl, rfl, by intro pin h; cases h⟩
theorem tHeld_held : tHeld.heldOn tCfg := ⟨rfl, rfl, 8, rfl, rfl⟩

theorem test_witness_DecodeInvertsEncode : cmds.legal = true ∧ otherCmds.legal = true ∧ (Instr.evValue 63).standsAfter cmds (some (.low, 0x81)) = true ∧
    (Instr.displayData 0xFF).standsAfter cmds (some (.high, 0x81)) = true ∧ (Instr.setResistor 8).standsAfter cmds none = true := by
  decide
theorem test_witness_DecodedByteEncodesBack : decodeByte cmds none .low 0xB7 = .ok (.cmdPage 7) ∧
    decodeByte cmds (some (.low, 0x81)) .high 0x3F = .ok (.evValue 63) ∧ cmds.legal = true ∧
    (Instr.cmdPage 7).framedByte cmds = some (.low, 0xB7) ∧ (Instr.cmdPage 7).standsAfter cmds none = true := by decide
theorem test_witness_CommandRowsDoNotOverlap : otherCmds.legal = true := by decide
theorem test_witness_HostCallsAreHostOperations : decode cmds none (.call 8 [.num 3]) = .ok (.setOrientation 3) := by decide
theorem test_witness_StepRunsTheDecodedInstruction : ∃ (s : State) (item : Item) (rest : List Item) (i : Instr),
    s.fault = none ∧ s.input = item :: rest ∧ decode s.par.cmd s.lastByte (withDefaults s.par item) = .ok i :=
  ⟨tCalls [.call 8 [.num 1], .call 1 []], _, _, .setOrientation 1, rfl, rfl, by decide⟩
theorem test_witness_StepWaits : tOff.fault = none ∧ tOff.input = [] := by decide
theorem test_witness_StepRefuses : ∃ (s : State) (item : Item) (rest : List Item) (why : Reject),
    s.fault = none ∧ s.input = item :: rest ∧ decode s.par.cmd s.lastByte (withDefaults s.par item) = .error why :=
  ⟨tCalls [.call 9 []], _, _, .noSuchOperation 9, rfl, rfl, by decide⟩
theorem test_witness_FlushDefaultsToFullExtent :
    (tCalls [.call 7 []]).fault = none ∧ (tCalls [.call 7 []]).input = .call 7 [] :: [] := by decide
theorem test_witness_OnlyTheFaultMarkStops :
    ({ tOn with fault := some .badArgument } : State).fault = some .badArgument ∧ tOn.fault = none := by decide
theorem test_witness_FaultSetsOnlyTheMark : ∃ t, exec (.setResistor 8) tOn = .next t ∧ t.fault = some .badArgument :=
  ⟨_, rfl, rfl⟩
theorem test_witness_NoInstructionRaisesBadIndex : ∃ t, exec (.setPixel 101 63 false) tOn = .next t := ⟨_, rfl⟩
theorem test_witness_SendCommandEmitsLowFrame :
    (tOn.fault = none ∧ tOn.cfg = some tCfg) ∧ (tOff.fault = none ∧ tOff.cfg = none) := by decide
theorem test_witness_SendDataEmitsHighFrame :
    (tOnNoRst.fault = none ∧ tOnNoRst.cfg = some tCfgNoRst) ∧ (tOff.fault = none ∧ tOff.cfg = none) := by decide
theorem test_witness_LinesAfterAFrame : ∃ t u, tOn.cfg = some tCfg ∧ tCfg.cs ≠ tCfg.cd ∧
    exec (.sendCommand 0xAF) tOn = .next t ∧ exec (.sendData 0x06) tOn = .next u :=
  ⟨_, _, rfl, by decide, rfl, rfl⟩
theorem test_witness_FramedBytesAreSentInTheirFrame :
    (Instr.cmdPage 7).framedByte cmds = some (.low, 0xB7) ∧ tOn.fault = none ∧ tOn.cfg = some tCfg := by decide
theorem test_witness_BusOperationsNeedATransport : tOff.fault = none ∧ tOff.cfg = none ∧
    (∃ x, (Instr.cmdEv).framedByte cmds = some x) ∧ (∃ v, Instr.setResistor 7 = .setResistor v ∧ v ≤ 7) ∧
    tOff.dfc = 0 ∧ max (0#16).toInt 0 / 8 ≤ min (63#16).toInt ((tOff.par.height : Int) - 1) / 8 ∧ 0 ≤ (101#16).toInt ∧
    (101#16).toInt ≤ (tOff.par.width : Int) - 1 ∧
    ((101#16).toInt ≤ (0#16).toInt → (0#16).toInt ≤ (tOff.par.width : Int) - 1) :=
  ⟨rfl, rfl, ⟨_, rfl⟩, ⟨7, rfl, by decide⟩, by decide⟩
theorem test_witness_ColumnCommandsSetThePointer : tOn.fault = none ∧ tOn.linkedOn tCfg ∧
    tOn.par.cmd.legal = true := ⟨rfl, tOn_linked, by decide⟩
theorem test_witness_PageCommandSetsThePage : tOnNoRst.fault = none ∧ tOnNoRst.linkedOn tCfgNoRst ∧
    tOnNoRst.par.cmd.legal = true := ⟨rfl, tOnNoRst_linked, by decide⟩
theorem test_witness_OtherCommandsLosePointersAndSystemResetTheRam : tOn.fault = none ∧ tOn.linkedOn tCfg ∧
    tOn.par.cmd.legal = true ∧ (Instr.cmdScroll 0).isCommandByte = true ∧ (∀ l, Instr.cmdScroll 0 ≠ .cmdColLsb l) ∧
    (∀ h, Instr.cmdScroll 0 ≠ .cmdColMsb h) ∧ (∀ p, Instr.cmdScroll 0 ≠ .cmdPage p) ∧
    Instr.cmdSysreset.isCommandByte = true :=
  ⟨rfl, tOn_linked, by decide, rfl, by simp, by simp, by simp, rfl⟩
/-- The last column of the display RAM, the column before it, and a pointer outside it: the clauses of 20_memory R52. -/
def tLastCol : State := { tOn with rx := { tRx with colHi := 8, colLo := 3 } }
def tOutCol : State := { tOn with rx := { tRx with colHi := 8, colLo := 4 } }
theorem test_witness_DataByteWritesDisplayRam :
    (tOn.fault = none ∧ tOn.linkedOn tCfg ∧ tOn.rx.argNext = false ∧ tOn.rx.col < tOn.par.panelCols ∧
      tOn.rx.page < tOn.par.panelPages) ∧
    (tLastCol.linkedOn tCfg ∧ tLastCol.rx.col + 1 = tLastCol.par.panelCols) ∧
    (tOutCol.linkedOn tCfg ∧ tOutCol.rx.argNext = false ∧ tOutCol.rx.col = tOutCol.par.panelCols) :=
  ⟨⟨rfl, tOn_linked, rfl, by decide, by decide⟩, ⟨tOn_linked, by decide⟩, tOn_linked, rfl, by decide⟩
def tArg : State := { tOn with rx := { tRx with argNext := true } }
theorem test_witness_ArgumentByteIsNotStoredAsData :
    tArg.fault = none ∧ tArg.linkedOn tCfg ∧ (Instr.evValue 6).framedByte cmds = some (.high, 6) ∧ tArg.rx.argNext = true ∧
    Instr.cmdApc.framedByte cmds = some (.low, 0xFA) := ⟨rfl, tOn_linked, rfl, rfl, rfl⟩
theorem test_witness_NothingIsDeliveredWhileInReset :
    tHeld.fault = none ∧ tHeld.heldOn tCfg ∧ (Instr.displayData 1).framedByte cmds = some (.high, 1) ∧
    (∃ v, Instr.setResistor 7 = .setResistor v ∧ v ≤ 7) ∧ tHeld.dfc = 0 ∧
    ((1 : Nat) : Int) = min (7#16).toInt ((tHeld.par.height : Int) - 1) / 8 - max (0#16).toInt 0 / 8 + 1 ∧
    ((0 : Nat) : Int) = max 0 ((0#16).toInt - (101#16).toInt + 1) ∧ 0 ≤ (101#16).toInt ∧
    (101#16).toInt ≤ (tHeld.par.width : Int) - 1 ∧
    ((101#16).toInt ≤ (0#16).toInt → (0#16).toInt ≤ (tHeld.par.width : Int) - 1) :=
  ⟨rfl, tHeld_held, rfl, ⟨7, rfl, by decide⟩, by decide⟩
/-- The corner pixel, on a pixel the call writes, and a coordinate just outside. -/
theorem test_witness_SetPixelWritesItsPixelOnly : tOn.fault = none ∧ inPhysical tOn.par (101, 63) = true ∧
    inLogical tOn.par tOn.orient 101 63 = true ∧ transform tOn.par tOn.orient 101 63 = (101, 63) ∧
    inLogical tOn.par tOn.orient 102 63 = false ∧ tOn.par.size ≤ 816 := by decide
/-- Both clauses: with the flag true, and "on" with the flag false. -/
theorem test_witness_SetPixelReadsBack : tOn.fault = none ∧ inLogical tOn.par tOn.orient 101 63 = true ∧
    inPhysical tOn.par (transform tOn.par tOn.orient 101 63) = true ∧ tOn.enabled = true ∧
    tOff.fault = none ∧ inLogical tOff.par tOff.orient 0 0 = true ∧
    inPhysical tOff.par (transform tOff.par tOff.orient 0 0) = true ∧ tOff.enabled = false := by decide
theorem test_witness_SetPixelIsIdempotent : ∃ t u, exec (.setPixel 9 10 true) tOn = .next t ∧
    exec (.setPixel 9 10 true) t = .next u := ⟨_, _, rfl, rfl⟩
/-- Both ends of the reachable range of the 90 degree mapping on 102 by 64, and a coordinate beyond it; a pixel that
mapping reaches, and one it does not. -/
theorem test_witness_ReachableRegions :
    inLogical tPar .deg90 0 0 = true ∧ inLogical tPar .deg90 0 63 = true ∧ inLogical tPar .deg90 0 64 = true ∧
    inLogical tPar .deg270 38 0 = true ∧ inLogical tPar .deg270 37 0 = true ∧ inLogical tPar .deg0 101 63 = true ∧
    inPhysical tPar (63, 0) = true ∧ inPhysical tPar (64, 0) = true ∧ inPhysical tPar (0, 38) = true := by decide
theorem test_witness_PixaddrIsABijection : inPhysical tPar (101, 63) = true ∧ (0 : Int) ≤ 815 ∧
    (815 : Int) < (tPar.width * tPar.pages : Nat) ∧ 7 < 8 := by decide
theorem test_witness_SetOrientationWritesOrFaults : tOn.fault = none ∧ 3 ≤ 3 ∧ 3 < 4 := by decide
theorem test_witness_ClearZeroesTheBuffer : tSmall.fault = none := rfl
theorem test_witness_FlushIsIgnoredWhileDeferred :
    ({ tOn with dfc := 1 } : State).fault = none ∧ ({ tOn with dfc := 1 } : State).dfc ≠ 0 := by decide
/-- The last row, the row before the buffer, and the row behind it. -/
theorem test_witness_PageRangeIsFloored : firstPage 63 ≤ lastPage tPar 63 ∧ lastPage tPar 63 = 7 ∧
    lastPage tPar (-1) = -1 ∧ firstPage (-1) = 0 ∧ lastPage tPar 64 = 7 ∧ firstPage 64 = 8 := by decide
/-- `flush 0, 0, 101, 63`, the whole buffer. -/
theorem test_witness_FlushSendsItsPages : tOn.fault = none ∧ tOn.cfg = some tCfg ∧ tCfg.hoffset = 0 ∧ tOn.dfc = 0 ∧
    max (0#16).toInt 0 / 8 ≤ min (63#16).toInt ((tOn.par.height : Int) - 1) / 8 ∧ 0 ≤ (0#16).toInt ∧
    (0#16).toInt ≤ (tOn.par.width : Int) - 1 ∧
    ((0#16).toInt ≤ (101#16).toInt → (101#16).toInt ≤ (tOn.par.width : Int) - 1) := by decide
/-- A witness for each clause: a counter of 1; `y1 = -1`; `x0 = 102`, `x0 = -1` and `x1 = 102`; no transport. -/
theorem test_witness_FlushChecksInOrder :
    (({ tOn with dfc := 1 } : State).fault = none ∧ ({ tOn with dfc := 1 } : State).dfc ≠ 0) ∧
    (tOn.dfc = 0 ∧ max (0#16).toInt 0 / 8 > min (0xFFFF#16).toInt ((tOn.par.height : Int) - 1) / 8) ∧
    (max (0#16).toInt 0 / 8 ≤ min (7#16).toInt ((tOn.par.height : Int) - 1) / 8 ∧
      (tOn.par.width : Int) - 1 < (102#16).toInt ∧ (0xFFFF#16).toInt < 0 ∧ (0#16).toInt ≤ (102#16).toInt) ∧
    (tOff.fault = none ∧ tOff.dfc = 0 ∧ tOff.cfg = none ∧ (101#16).toInt ≤ (tOff.par.width : Int) - 1) := by decide
/-- `flush 0, 7, 101, 8`: two pages of 102 columns (V32); and a flush of no column (V30). -/
theorem test_witness_FlushCountsItsBytes : (∃ t, exec (.flush 101 0 0 7) tOn = .next t) ∧ tOn.fault = none ∧
    tOn.cfg = some tCfg ∧ tCfg.cs ≠ tCfg.cd ∧ tOn.dfc = 0 ∧
    ((1 : Nat) : Int) = min (7#16).toInt ((tOn.par.height : Int) - 1) / 8 - max (0#16).toInt 0 / 8 + 1 ∧
    ((0 : Nat) : Int) = max 0 ((0#16).toInt - (101#16).toInt + 1) ∧ 0 ≤ (101#16).toInt ∧
    (101#16).toInt ≤ (tOn.par.width : Int) - 1 ∧
    ((101#16).toInt ≤ (0#16).toInt → (0#16).toInt ≤ (tOn.par.width : Int) - 1) :=
  ⟨⟨_, rfl⟩, by decide⟩
theorem test_witness_FlushIgnoresFlagStateAndOrientation : ∃ t, exec (.flush 0 0 1 15) tSmall = .next t := ⟨_, rfl⟩
theorem test_witness_FlushDeliversTheBufferToThePanel : tOn.fault = none ∧ tOn.linkedOn tCfg ∧
    tOn.par.cmd.legal = true ∧ tCfg.hoffset = 0 ∧
    tOn.dfc = 0 ∧ max (8#16).toInt 0 / 8 ≤ min (15#16).toInt ((tOn.par.height : Int) - 1) / 8 ∧ 0 ≤ (0#16).toInt ∧
    (0#16).toInt ≤ (tOn.par.width : Int) - 1 ∧ ((0#16).toInt ≤ (15#16).toInt → (15#16).toInt ≤ (tOn.par.width : Int) - 1) ∧
    7 < tOn.par.panelPages ∧ 101 < tOn.par.panelCols :=
  ⟨rfl, tOn_linked, by decide, rfl, rfl, by decide⟩
theorem test_witness_BeginBootsTheBlock : tOff.fault = none ∧ 10 ≠ 9 ∧ some 8 ≠ some 10 ∧ some 8 ≠ some 9 ∧
    tCfg = ⟨4000000, 10, 9, some 8, false, false, 0⟩ := by decide
/-- With a reset pin and without one. -/
theorem test_witness_InitCountsBytesAndLines : ∃ t u, tOff.fault = none ∧ some 8 ≠ some 10 ∧ some 8 ≠ some 9 ∧
    exec (.beginOp true 4000000 10 9 (some 8) false false) tOff = .next t ∧
    exec (.beginOp true 1000000 10 9 none true true) tOff = .next u :=
  ⟨_, _, rfl, by decide, by decide, rfl, rfl⟩
theorem test_witness_BeginWithoutTransport : (tOff.fault = none ∧ tOff.ctl = .uninit) ∧
    (tOn.fault = none ∧ tOn.ctl ≠ .uninit) := by decide
theorem test_witness_BeginRefusesAliasedPins : tOff.fault = none ∧ (10 : Nat) = 10 ∧ some 10 = some 10 ∧ some 9 = some 9 := by
  decide
theorem test_witness_DisableSequence : tOn.fault = none ∧ tOn.cfg = some tCfg ∧ tOnNoRst.cfg = some tCfgNoRst ∧
    tOff.fault = none ∧ tOff.cfg = none := by decide
theorem test_witness_LinesAfterDisable : ∃ t, tOn.fault = none ∧ tOn.cfg = some tCfg ∧
    badPins tCfg.cs tCfg.cd tCfg.rst = false ∧ exec (.setEnabled false) tOn = .next t := ⟨_, rfl, rfl, rfl, rfl⟩
theorem test_witness_EnableIsInitAgain : (tHeld.fault = none ∧ tHeld.cfg = some tCfg ∧
    badPins tCfg.cs tCfg.cd tCfg.rst = false ∧ tCfg.hoffset = 0) ∧ (tOff.fault = none ∧ tOff.cfg = none) := by decide
theorem test_witness_SetContrastMasksItsValue : tOn.fault = none ∧ tOn.cfg = some tCfg ∧ tOff.fault = none ∧
    tOff.cfg = none := by decide
theorem test_witness_SetResistorSendsOrFaults : tOn.fault = none ∧ 7 ≤ 7 ∧ tOn.cfg = some tCfg ∧ tOff.fault = none ∧
    tOff.cfg = none ∧ 7 < 8 := by decide
theorem test_witness_SetInvertedSendsItsCommand : tOn.fault = none ∧ tOn.cfg = some tCfg ∧ tOff.fault = none ∧
    tOff.cfg = none := by decide
theorem test_witness_OnlySetOrientationWritesTheOrientation : ∃ t, exec .clear tOn = .next t ∧
    ∀ r, Instr.clear ≠ .setOrientation r := ⟨_, rfl, by simp⟩
theorem test_witness_OnlyBeginAndSetEnabledWriteTheFlag :
    ∃ t, exec (.beginOp false 1 2 3 none false false) tOff = .next t ∧
      (∀ clk cs cd rst xf yf, Instr.beginOp false 1 2 3 none false false ≠ .beginOp true clk cs cd rst xf yf) ∧
      ∀ on, Instr.beginOp false 1 2 3 none false false ≠ .setEnabled on :=
  ⟨_, rfl, by simp, by simp⟩
theorem test_witness_OnlyPixelClearAndInitWriteTheBuffer : ∃ t, exec (.setEnabled false) tOn = .next t ∧
    (∀ clk cs cd rst xf yf, Instr.setEnabled false ≠ .beginOp true clk cs cd rst xf yf) ∧
    Instr.setEnabled false ≠ .setEnabled true ∧ Instr.setEnabled false ≠ .clear ∧
    ∀ x y k, Instr.setEnabled false ≠ .setPixel x y k :=
  ⟨_, rfl, by simp, by decide, by decide, by simp⟩
theorem test_witness_OnlyBeginWritesTheConfiguration : ∃ t, exec (.setEnabled true) tHeld = .next t ∧
    ∀ tr clk cs cd rst xf yf, Instr.setEnabled true ≠ .beginOp tr clk cs cd rst xf yf :=
  ⟨_, rfl, by simp⟩
/-- Both cases: a block with a configuration after the call, and one without. -/
theorem test_witness_TraceGrowsAndReceiverFollows :
    (∃ t, exec (.setContrast 70) tOn = .next t ∧ t.cfg = some tCfg) ∧ (∃ t, exec .clear tOff = .next t ∧ t.cfg = none) :=
  ⟨⟨_, rfl, rfl⟩, ⟨_, rfl, rfl⟩⟩
theorem test_witness_OnlySetPixelOnReadsTheFlag : (∀ x y, Instr.setPixel 0 0 false ≠ .setPixel x y true) ∧
    ∃ t, exec (.setPixel 0 0 false) tOn = .next t := ⟨by simp, _, rfl⟩
theorem test_witness_HostOperationsSendTableCommandsOnly : ∃ t, (Instr.setInverted true).isHostOp = true ∧
    exec (.setInverted true) tOn = .next t ∧ t.cfg = some tCfg ∧ tCfg.cs ≠ tCfg.cd ∧
    t.trace = tOn.trace ++ frame 3 tCfg .low 0xA7 ∧ (.low, (0xA7 : Byte)) ∈ bytesFrom tCfg.cd .high (frame 3 tCfg .low 0xA7) ∧
    tOn.par.cmd.legal = true :=
  ⟨_, rfl, rfl, rfl, by decide, rfl, by decide, by decide⟩

/-- A block about to begin, and one about to write a pixel. -/
def tAboutToBegin : State := tCalls [.call 0 [.transport, .num 1, .num 10, .num 9, .absent, .num 0, .num 0]]

theorem test_witness_StepKeepsMemoryCanonical : ∃ t, tSmall.memoryOk ∧ step tSmall = .next t :=
  ⟨_, ⟨by decide, by decide, by decide⟩, rfl⟩
theorem test_witness_StepKeepsFlagAndStateAgreeing :
    ∃ t, State.booted { tOn with input := [.call 3 [.num 0]] } ∧ step { tOn with input := [.call 3 [.num 0]] } = .next t :=
  ⟨_, ⟨by decide, by decide⟩, rfl⟩
theorem test_witness_StepKeepsTheConfigurationLegal :
    ∃ t, State.cfgOk { tOn with input := [.call 3 [.num 0]] } ∧ step { tOn with input := [.call 3 [.num 0]] } = .next t :=
  ⟨_, ⟨by decide, (by intro c h; cases h; decide)⟩, rfl⟩
theorem test_witness_StepKeepsReceiverAFunctionOfTheTrace : ∃ t, State.rxOk { tAboutToBegin with rx := Rx.initial } ∧
    step { tAboutToBegin with rx := Rx.initial } = .next t ∧
    ∀ c d, tAboutToBegin.cfg = some c → t.cfg = some d → c.cs = d.cs ∧ c.cd = d.cd ∧ c.rst = d.rst :=
  ⟨_, ⟨rfl, rfl⟩, rfl, by intro c d h; cases h⟩

/-- The word of a command row, placed where the step fetches, is run: before a `begin` it raises `NO_TRANSPORT`
(40_protocol R86). -/
theorem test_step_word : ∃ t, step (State.reset.withFetchWord 8 0xE2) = .next t ∧ t.fault = some .noTransport :=
  ⟨_, rfl, rfl⟩
theorem test_step_word_host : ∃ t, step (State.reset.withFetchWord 8 8) = .next t ∧ t.orient = .deg0 := ⟨_, rfl, rfl⟩

end Sys2Proof.Tests
end

section
/-! Scope: a step runs the operation the host calls (00_scope R6, 10_state R33). -/

namespace Sys2Proof.Machine

/-- Fetching an entry that decodes uses it up and touches nothing else of the state. -/
theorem State.fetch_of_decode_ok {s : State} {item : Item} {rest : List Item} {i : Instr} (hfault : s.fault = none)
    (hinput : s.input = item :: rest) (hdecode : decode s.par.cmd s.lastByte (withDefaults s.par item) = .ok i) :
    s.fetch = .ready i { s with input := rest } := by
  simp only [State.fetch, hfault, hinput, hdecode]

/-- A fetched instruction is run in the state the fetch left. -/
theorem step_of_fetch_ready {s t : State} {i : Instr} (hfetch : s.fetch = .ready i t) : step s = exec i t := by
  simp only [step, hfetch]

/-- Settles O6: the fetch makes the entry ready, and the step runs what is ready. -/
theorem stepRunsTheDecodedInstruction : Obligations.StepRunsTheDecodedInstruction := by
  intro s item rest i hfault hinput hdecode
  exact step_of_fetch_ready (State.fetch_of_decode_ok hfault hinput hdecode)

end Sys2Proof.Machine
end

section
/-! What an instruction can do to the state (10_state R17): the one case analysis of `exec` from which the rules about
who writes what and the invariants of a step follow. -/

namespace Sys2Proof

/-! ## The shapes of instructions -/

/-- The bytes of an instruction that does nothing but send bytes, without a check of its own; none for the others. -/
def Instr.sentBytes (cmd : CommandBytes) : Instr → Option (List (Level × Byte))
  | .setContrast v => some [(.low, Config.cmdEv), (.high, Machine.contrastByte v)]
  | .setInverted on => some [(.low, inverseByte cmd on)]
  | .sendCommand b => some [(.low, b)]
  | .sendData b => some [(.high, b)]
  | i => (i.framedByte cmd).map fun x => [x]

/-- An instruction only sends bytes, or it is one of seven host operations with a meaning of its own. -/
inductive Instr.Shape (cmd : CommandBytes) : Instr → Prop
  | sends {i : Instr} {bs : List (Level × Byte)} (hbs : i.sentBytes cmd = some bs) : Shape cmd i
  | beginOp (transport : Bool) (clock cs cd : Nat) (rst : Option Nat) (xflip yflip : Bool) :
      Shape cmd (.beginOp transport clock cs cd rst xflip yflip)
  | clear : Shape cmd .clear
  | setPixel (x y : BitVec 16) (color : Bool) : Shape cmd (.setPixel x y color)
  | setEnabled (on : Bool) : Shape cmd (.setEnabled on)
  | setResistor (value : Nat) : Shape cmd (.setResistor value)
  | flush (x0 y0 x1 y1 : BitVec 16) : Shape cmd (.flush x0 y0 x1 y1)
  | setOrientation (r : Nat) : Shape cmd (.setOrientation r)

theorem Instr.shape (cmd : CommandBytes) (i : Instr) : i.Shape cmd := by
  cases i with
  | beginOp => exact .beginOp ..
  | clear => exact .clear
  | setPixel => exact .setPixel ..
  | setEnabled => exact .setEnabled _
  | setResistor => exact .setResistor _
  | flush => exact .flush ..
  | setOrientation => exact .setOrientation _
  | setContrast | setInverted | sendCommand | sendData | cmdColLsb | cmdColMsb | cmdResistor | cmdPower | cmdScroll
  | cmdEv | cmdSeg | cmdBias | cmdAllpix | cmdInverse | cmdDisplay | cmdPage | cmdCom | cmdSysreset | cmdApc
  | evValue | apcValue | displayData => exact .sends rfl

end Sys2Proof

namespace Sys2Proof.Machine

/-- An instruction that only sends bytes runs by sending them. -/
theorem exec_of_sentBytes {i : Instr} {s : State} {bs : List (Level × Byte)}
    (hbs : i.sentBytes s.par.cmd = some bs) : exec i s = s.run (s.send bs) := by
  cases i <;> cases hbs <;> rfl

/-! ## Init, in one piece -/

/-- The events of init, in order (43_controller R113, R115, R118). -/
def initEvents (p : Params) (c : Cfg) : List Event := controlLines c ++ resetPulse c ++ commandList p c

/-- Init emits its events and leaves the block cleared, with the flag set and in ENABLED (43_controller R118). -/
theorem State.init_eq {s : State} {c : Cfg} (hcfg : s.cfg = some c) :
    s.init c =
      { s.withEvents c (initEvents s.par c) with fb := Memory.zeroed, dfc := 0, enabled := true, ctl := .enabled } := by
  have hflat : s.init c = { s.emit (initEvents s.par c) with
      fb := Memory.zeroed, dfc := 0, enabled := true, ctl := .enabled } := by
    rw [initEvents, State.emit_append, State.emit_append]; rfl
  rw [hflat, s.emit_eq_withEvents c _ hcfg]

/-- Disabling emits its events, clears the flag and moves to DISABLED (43_controller R120). -/
theorem State.disable_eq {s : State} {c : Cfg} (hcfg : s.cfg = some c) :
    s.disable c = { s.withEvents c (disableEvents s.par c) with enabled := false, ctl := .disabled } := by
  rw [State.disable, s.emit_eq_withEvents c _ hcfg]; rfl

/-! ## What an instruction can do -/

/-- All that an instruction which answers a next state can have done (10_state R17), with the checks it passed. -/
inductive Change (s : State) : Instr → State → Prop
  /-- it faulted, which sets the mark alone (60_exceptions R130) -/
  | raised {i : Instr} (code : FaultCode) : Change s i (s.raise code)
  /-- a `setPixel` out of bounds, or on while the flag is off, did nothing (41_framebuffer R93, R94) -/
  | ignoredPixel {x y : BitVec 16} {color : Bool} : Change s (.setPixel x y color) s
  /-- a `flush` deferred or of no page did nothing (42_flush R103, R104) -/
  | ignoredFlush {x0 y0 x1 y1 : BitVec 16} : Change s (.flush x0 y0 x1 y1) s
  /-- it sent bytes in their frames on the configured pins (40_protocol R83, R84) -/
  | sent {i : Instr} {c : Cfg} (bs : List (Level × Byte)) (hcfg : s.cfg = some c) :
      Change s i (s.withEvents c (frames s.par.spiMode c bs))
  /-- it wrote one byte of the framebuffer (41_framebuffer R93) -/
  | drew {x y : BitVec 16} {color : Bool} {index : Nat} (b : Byte) (hindex : index < s.par.size) :
      Change s (.setPixel x y color) { s with fb := s.fb.write index b }
  /-- it set the orientation (41_framebuffer R96) -/
  | turned {r : Nat} {o : Orient} (ho : orientOf r = some o) : Change s (.setOrientation r) { s with orient := o }
  /-- it cleared the framebuffer and the counter (41_framebuffer R97) -/
  | cleared : Change s .clear s.cleared
  /-- a `begin` without a transport reported the error, the block being UNINIT (43_controller R112) -/
  | reported {clock cs cd : Nat} {rst : Option Nat} {xflip yflip : Bool} (hctl : s.ctl = .uninit) :
      Change s (.beginOp false clock cs cd rst xflip yflip) (s.report .cfgNoTransport)
  /-- a `begin` with a transport recorded its configuration and ran init (43_controller R110, R111) -/
  | began {clock cs cd : Nat} {rst : Option Nat} {xflip yflip : Bool} {c : Cfg}
      (hc : c = recordCfg clock cs cd rst xflip yflip) (hpins : badPins c.cs c.cd c.rst = false) :
      Change s (.beginOp true clock cs cd rst xflip yflip) (({ s with cfg := some c } : State).init c)
  /-- `setEnabled(true)` ran init again (43_controller R121) -/
  | enabled {c : Cfg} (hcfg : s.cfg = some c) : Change s (.setEnabled true) (s.init c)
  /-- `setEnabled(false)` disabled the block (43_controller R120) -/
  | disabled {c : Cfg} (hcfg : s.cfg = some c) : Change s (.setEnabled false) (s.disable c)

/-- An operation that ends in a send faulted or sent. -/
theorem Change.of_send (i : Instr) (s : State) (bs : List (Level × Byte)) : Change s i (s.settle (s.send bs)) := by
  cases hcfg : s.cfg with
  | none => rw [s.send_none bs hcfg]; exact .raised _
  | some c => rw [s.send_some c bs hcfg, State.settle_ok, s.emit_eq_withEvents c _ hcfg]; exact .sent bs hcfg

theorem Change.of_memWrite (x y : BitVec 16) (color : Bool) (s : State) (index : Int) (b : Byte) :
    Change s (.setPixel x y color) (s.settle (s.memWrite index b)) := by
  unfold State.memWrite
  split
  · exact .drew b (by omega)
  · exact .raised _

theorem Change.of_setPixelAt (x y : BitVec 16) (color : Bool) (s : State) (px py : Int) :
    Change s (.setPixel x y color) (s.settle (s.setPixelAt px py color)) := by
  unfold State.setPixelAt
  split
  · exact .ignoredPixel
  · unfold State.mutatePixel
    split
    · exact .raised _
    · split
      · split
        · exact of_memWrite ..
        · exact .ignoredPixel
      · exact of_memWrite ..

theorem Change.of_flushBox (x0 y0 x1 y1 : BitVec 16) (s : State) (a b c d : Int) :
    Change s (.flush x0 y0 x1 y1) (s.settle (s.flushBox a b c d)) := by
  unfold State.flushBox
  split
  · exact .ignoredFlush
  split
  · exact .ignoredFlush
  split
  · exact .raised _
  split
  · exact .raised _
  split
  · exact .raised _
  · exact of_send ..

theorem Change.of_beginWith (transport : Bool) (clock cs cd : Nat) (rst : Option Nat) (xflip yflip : Bool)
    (s : State) : Change s (.beginOp transport clock cs cd rst xflip yflip)
      (s.settle (s.beginWith transport (recordCfg clock cs cd rst xflip yflip))) := by
  unfold State.beginWith
  cases transport with
  | true =>
    simp only [if_true]
    split
    · exact .raised _
    · next hpins => exact .began rfl (Bool.eq_false_iff.2 hpins)
  | false =>
    simp only [Bool.false_eq_true, if_false]
    split
    · next hctl => exact .reported hctl
    · exact .raised _

/-- The one inversion lemma of `exec`: every instruction does what `Change` lists, and nothing else. -/
theorem exec_change {i : Instr} {s t : State} (h : exec i s = .next t) : Change s i t := by
  cases i.shape s.par.cmd with
  | sends hbs =>
    rw [exec_of_sentBytes hbs] at h
    obtain ⟨-, rfl⟩ := (s.run_next_iff t _).1 h
    exact .of_send ..
  | beginOp =>
    obtain ⟨-, rfl⟩ := (s.run_next_iff t _).1 h
    exact .of_beginWith ..
  | clear =>
    obtain ⟨-, rfl⟩ := (s.run_next_iff t _).1 h
    exact .cleared
  | setPixel =>
    obtain ⟨-, rfl⟩ := (s.run_next_iff t _).1 h
    exact .of_setPixelAt ..
  | setEnabled on =>
    obtain ⟨-, rfl⟩ := (s.run_next_iff t _).1 h
    split
    · exact .raised _
    · next hcfg =>
      cases on with
      | true => exact .enabled hcfg
      | false => exact .disabled hcfg
  | setResistor =>
    obtain ⟨-, rfl⟩ := (s.run_next_iff t _).1 h
    split
    · exact .raised _
    · exact .of_send ..
  | flush =>
    obtain ⟨-, rfl⟩ := (s.run_next_iff t _).1 h
    exact .of_flushBox ..
  | setOrientation =>
    obtain ⟨-, rfl⟩ := (s.run_next_iff t _).1 h
    split
    · exact .raised _
    · next ho => exact .turned ho

/-! ## What a step can do -/

/-- What the fetch makes ready runs in the state with some calls used up, and nothing else of it touched. -/
theorem State.fetch_ready {s t : State} {i : Instr} (h : s.fetch = .ready i t) :
    ∃ rest, t = { s with input := rest } := by
  unfold State.fetch at h
  split at h
  · cases h
  · cases h
  · split at h
    · cases h
    · cases h; exact ⟨_, rfl⟩

/-- A step that answers a next state waited, or ran an instruction with the entry used up (00_scope R6). -/
theorem step_next_cases {s t : State} (h : step s = .next t) :
    t = s ∨ ∃ i rest, exec i { s with input := rest } = .next t := by
  unfold step at h
  split at h
  · cases h
  · cases h; exact .inl rfl
  · cases h
  · next i u hfetch =>
    obtain ⟨rest, rfl⟩ := State.fetch_ready hfetch
    exact .inr ⟨i, rest, h⟩

/-- A property that does not depend on the calls to come and that every change keeps is kept by every step. -/
theorem step_keeps {P : State → Prop} (hinput : ∀ s rest, P s → P { s with input := rest })
    (hchange : ∀ {s i t}, P s → Change s i t → P t) (s t : State) (hs : P s) (h : step s = .next t) : P t := by
  obtain rfl | ⟨i, rest, h⟩ := step_next_cases h
  · exact hs
  · exact hchange (hinput s rest hs) (exec_change h)

end Sys2Proof.Machine
end

section
/-! The invariants of the flag, the controller state and the configuration (10_state R24, R30, R31). -/

namespace Sys2Proof.Machine

/-! ## Flag and controller state -/

/-- Init leaves a begun block in agreement, whatever it was in before (43_controller R127). -/
theorem State.init_booted {s : State} {c : Cfg} (hcfg : s.cfg = some c) : (s.init c).booted := by
  rw [State.init_eq hcfg]
  exact ⟨fun hnone => absurd (hcfg.symm.trans hnone) (by simp), fun _ => ⟨rfl, .inl rfl, by simp⟩⟩

/-- Disabling keeps the agreement: it clears the flag together with leaving ENABLED, and leaves the counter zero. -/
theorem State.disable_booted {s : State} {c : Cfg} (hcfg : s.cfg = some c) (hs : s.booted) :
    (s.disable c).booted := by
  obtain ⟨hdfc, -⟩ := hs.2 (by simp [hcfg])
  rw [State.disable_eq hcfg]
  exact ⟨fun hnone => absurd (hcfg.symm.trans hnone) (by simp), fun _ => ⟨hdfc, .inr rfl, by simp⟩⟩

theorem State.cleared_booted {s : State} (hs : s.booted) : s.cleared.booted :=
  ⟨hs.1, fun hbegun => ⟨rfl, (hs.2 hbegun).2⟩⟩

/-- The changes that write neither flag, controller state, counter nor configuration keep their agreement as it is. -/
theorem Change.keeps_booted {s t : State} {i : Instr} (hs : s.booted) (h : Change s i t) : t.booted := by
  cases h with
  | raised | ignoredPixel | ignoredFlush | sent | drew | turned | reported => exact hs
  | cleared => exact State.cleared_booted hs
  | began => exact State.init_booted rfl
  | enabled hcfg => exact State.init_booted hcfg
  | disabled hcfg => exact State.disable_booted hcfg hs

/-- Settles O55: only init, disabling and clear write what the invariant speaks of, and each restores it. -/
theorem stepKeepsFlagAndStateAgreeing : Obligations.StepKeepsFlagAndStateAgreeing :=
  step_keeps (fun _ _ hs => hs) Change.keeps_booted

/-! ## The recorded configuration -/

/-- Only a `begin` that passed the pin check records a configuration, and the offset it records is zero. -/
theorem Change.keeps_cfgOk {s t : State} {i : Instr} (hs : s.cfgOk) (h : Change s i t) : t.cfgOk := by
  cases h with
  | raised | ignoredPixel | ignoredFlush | sent | drew | turned | cleared | reported | enabled | disabled => exact hs
  | began hc hpins =>
    refine ⟨hs.1, fun d hd => ?_⟩
    cases hd
    exact ⟨hpins, by rw [hc]; rfl⟩

/-- Settles O56: by what a `begin` checks and records, the one change of the configuration. -/
theorem stepKeepsTheConfigurationLegal : Obligations.StepKeepsTheConfigurationLegal :=
  step_keeps (fun _ _ hs => hs) Change.keeps_cfgOk

/-! ## Construction -/

/-- Settles O58: by the fields of `State.construct` and the described instance. -/
theorem constructionState : Obligations.ConstructionState :=
  ⟨rfl, rfl, rfl, rfl, rfl, rfl, rfl, rfl, rfl⟩

theorem State.reset_memoryOk : State.reset.memoryOk := by
  refine ⟨(State.reset_memory_wf _).1, (State.reset_memory_wf _).2, ?_⟩
  simp [State.reset, State.construct, Rx.initial]

theorem State.reset_booted : State.reset.booted := ⟨fun _ => rfl, fun hbegun => absurd rfl hbegun⟩

theorem State.reset_cfgOk : State.reset.cfgOk := ⟨Config.commands_legal, fun _ hcfg => nomatch hcfg⟩

theorem State.reset_rxOk : State.reset.rxOk := ⟨rfl, rfl⟩

/-- Settles O60: both memories are draws, there is no configuration, and the command bytes are the legal defaults. -/
theorem constructionMeetsTheInvariants : Obligations.ConstructionMeetsTheInvariants :=
  ⟨State.reset_memoryOk, State.reset_booted, State.reset_cfgOk, State.reset_rxOk⟩

end Sys2Proof.Machine
end

section
/-! Who writes what (10_state R17 to R27): each rule reads the changes one by one. -/

namespace Sys2Proof.Machine

/-- Settles O47: of all changes only `turned` writes the orientation. -/
theorem onlySetOrientationWritesTheOrientation : Obligations.OnlySetOrientationWritesTheOrientation := by
  intro i s t h hother
  cases exec_change h with
  | turned => exact absurd rfl (hother _)
  | raised | ignoredPixel | ignoredFlush | sent | drew | cleared | reported | began | enabled | disabled => rfl

/-- Settles O48: of all changes only init and disabling write the flag or the controller state. -/
theorem onlyBeginAndSetEnabledWriteTheFlag : Obligations.OnlyBeginAndSetEnabledWriteTheFlag := by
  intro i s t h hbegin hset
  cases exec_change h with
  | began => exact absurd rfl (hbegin _ _ _ _ _ _)
  | enabled | disabled => exact absurd rfl (hset _)
  | raised | ignoredPixel | ignoredFlush | sent | drew | turned | cleared | reported => exact ⟨rfl, rfl⟩

/-- Settles O49: of all changes only init and clear write the counter, and `drew` the framebuffer besides. -/
theorem onlyPixelClearAndInitWriteTheBuffer : Obligations.OnlyPixelClearAndInitWriteTheBuffer := by
  intro i s t h hbegin henable hclear
  cases exec_change h with
  | began => exact absurd rfl (hbegin _ _ _ _ _ _)
  | enabled => exact absurd rfl henable
  | cleared => exact absurd rfl hclear
  | drew => exact ⟨rfl, fun hpixel => absurd rfl (hpixel _ _ _)⟩
  | raised | ignoredPixel | ignoredFlush | sent | turned | reported | disabled => exact ⟨rfl, fun _ => rfl⟩

/-- Settles O50: of all changes only those of a `begin` write the configuration or the diagnostics. -/
theorem onlyBeginWritesTheConfiguration : Obligations.OnlyBeginWritesTheConfiguration := by
  intro i s t h
  cases exec_change h with
  | began | reported => exact ⟨rfl, rfl, fun hbegin => absurd rfl (hbegin _ _ _ _ _ _ _)⟩
  | raised | ignoredPixel | ignoredFlush | sent | drew | turned | cleared | enabled | disabled =>
    exact ⟨rfl, rfl, fun _ => ⟨rfl, rfl⟩⟩

/-! ## Trace and receiver -/

/-- The trace grew by some events and the receiver took exactly these, on the pins configured afterwards. -/
def State.FollowedBy (s t : State) : Prop :=
  ∃ evs, t.trace = s.trace ++ evs ∧
    match t.cfg with
    | none => evs = [] ∧ t.rx = s.rx
    | some c => t.rx = recvEvents s.par c (Lines.of c s.trace) s.rx evs

theorem State.followedBy_of_events {s t : State} {c : Cfg} {evs : List Event} (hcfg : t.cfg = some c)
    (htrace : t.trace = s.trace ++ evs) (hrx : t.rx = recvEvents s.par c (Lines.of c s.trace) s.rx evs) :
    s.FollowedBy t := by
  refine ⟨evs, htrace, ?_⟩
  simpa only [hcfg] using hrx

theorem State.followedBy_of_quiet {s t : State} (htrace : t.trace = s.trace) (hrx : t.rx = s.rx) :
    s.FollowedBy t := by
  refine ⟨[], by simp [htrace], ?_⟩
  split
  · exact ⟨rfl, hrx⟩
  · exact hrx

/-- Settles O51: a change emits nothing, or it is a send, init or disabling on the configured pins. -/
theorem traceGrowsAndReceiverFollows : Obligations.TraceGrowsAndReceiverFollows := by
  intro i s t h
  show s.FollowedBy t
  cases exec_change h with
  | raised | ignoredPixel | ignoredFlush | drew | turned | cleared | reported => exact State.followedBy_of_quiet rfl rfl
  | sent bs hcfg => exact State.followedBy_of_events hcfg rfl rfl
  | began => rw [State.init_eq rfl]; exact State.followedBy_of_events rfl rfl rfl
  | enabled hcfg => rw [State.init_eq hcfg]; exact State.followedBy_of_events hcfg rfl rfl
  | disabled hcfg => rw [State.disable_eq hcfg]; exact State.followedBy_of_events hcfg rfl rfl

end Sys2Proof.Machine
end

section
/-! Who reads the enabled flag (10_state R20): every operation but `setPixel` on does the same under another flag. -/

namespace Sys2Proof.Machine

/-- An operation that keeps the flag does the same under another flag. -/
theorem State.settle_map_setEnabledFlag (s : State) (e : Bool) (result : Except FaultCode State) :
    (s.setEnabledFlag e).settle (result.map (·.setEnabledFlag e)) = (s.settle result).setEnabledFlag e := by
  cases result <;> rfl

theorem State.send_setEnabledFlag (s : State) (e : Bool) (bs : List (Level × Byte)) :
    (s.setEnabledFlag e).send bs = (s.send bs).map (·.setEnabledFlag e) := by
  unfold State.send
  simp only [State.setEnabledFlag_cfg]
  cases s.cfg <;> rfl

theorem State.memReads_setEnabledFlag (s : State) (e : Bool) (is : List Int) :
    (s.setEnabledFlag e).memReads is = s.memReads is := by
  induction is with
  | nil => rfl
  | cons i rest ih => simp only [State.memReads, ih]; rfl

theorem State.pagesBytes_setEnabledFlag (s : State) (e : Bool) (c x0 x1 : Int) (ps : List Int) :
    (s.setEnabledFlag e).pagesBytes c x0 x1 ps = s.pagesBytes c x0 x1 ps := by
  induction ps with
  | nil => rfl
  | cons p rest ih => simp only [State.pagesBytes, State.pageBytes, State.memReads_setEnabledFlag, ih]; rfl

theorem State.flushBox_setEnabledFlag (s : State) (e : Bool) (x0 y0 x1 y1 : Int) :
    (s.setEnabledFlag e).flushBox x0 y0 x1 y1 = (s.flushBox x0 y0 x1 y1).map (·.setEnabledFlag e) := by
  unfold State.flushBox
  simp only [State.setEnabledFlag_dfc, State.setEnabledFlag_par, State.setEnabledFlag_cfg,
    State.pagesBytes_setEnabledFlag, State.send_setEnabledFlag]
  split
  · rfl
  split
  · rfl
  split
  · rfl
  split
  · rfl
  split <;> rfl

theorem State.memWrite_error (s : State) (i : Int) (b : Byte) (h : ¬(0 ≤ i ∧ i < s.par.size)) :
    s.memWrite i b = .error .badIndex := if_neg h

theorem State.memWrite_setEnabledFlag (s : State) (e : Bool) (i : Int) (b : Byte) :
    (s.setEnabledFlag e).memWrite i b = (s.memWrite i b).map (·.setEnabledFlag e) := by
  by_cases hi : 0 ≤ i ∧ i < s.par.size
  · rw [s.memWrite_ok i b hi, (s.setEnabledFlag e).memWrite_ok i b hi]; rfl
  · rw [s.memWrite_error i b hi, (s.setEnabledFlag e).memWrite_error i b hi]; rfl

/-- Clearing a pixel is not gated by the flag (41_framebuffer R93). -/
theorem State.setPixelAt_off_setEnabledFlag (s : State) (e : Bool) (x y : Int) :
    (s.setEnabledFlag e).setPixelAt x y false = (s.setPixelAt x y false).map (·.setEnabledFlag e) := by
  unfold State.setPixelAt
  simp only [State.setEnabledFlag_par, State.setEnabledFlag_orient]
  split
  · rfl
  · next index k _ =>
    unfold State.mutatePixel
    rw [show (s.setEnabledFlag e).memRead index = s.memRead index from rfl]
    split
    · rfl
    · exact State.memWrite_setEnabledFlag ..

/-- An operation whose results differ only in the flag answers next states that differ only in it. -/
theorem State.run_setEnabledFlag {s t : State} {e e' : Bool} {result result' : Except FaultCode State}
    (h : s.run result = .next t)
    (hresult : (s.setEnabledFlag e).settle result' = (s.settle result).setEnabledFlag e') :
    (s.setEnabledFlag e).run result' = .next (t.setEnabledFlag e') := by
  obtain ⟨hfault, rfl⟩ := (s.run_next_iff t result).1 h
  exact (State.run_next_iff ..).2 ⟨hfault, hresult⟩

/-- An operation that passes the flag through answers the same next state under another flag, up to that flag. -/
theorem State.run_map_setEnabledFlag {s t : State} {e : Bool} {result result' : Except FaultCode State}
    (h : s.run result = .next t) (hresult : result' = result.map (·.setEnabledFlag e)) :
    ∃ e', (s.setEnabledFlag e).run result' = .next (t.setEnabledFlag e') :=
  ⟨e, s.run_setEnabledFlag h (by rw [hresult, s.settle_map_setEnabledFlag])⟩

/-- Init sets the flag, so what it was before makes no difference (43_controller R114). -/
theorem State.init_setEnabledFlag (s : State) (e : Bool) (c : Cfg) :
    (s.setEnabledFlag e).init c = (s.init c).setEnabledFlag true := rfl

/-- A `begin` that runs init sets the flag; every other one passes it through. -/
theorem State.beginWith_setEnabledFlag (s : State) (e transport : Bool) (c : Cfg) :
    ∃ e', (s.setEnabledFlag e).settle ((s.setEnabledFlag e).beginWith transport c) =
      (s.settle (s.beginWith transport c)).setEnabledFlag e' := by
  unfold State.beginWith
  split
  · split
    · exact ⟨e, rfl⟩
    · exact ⟨true, State.init_setEnabledFlag { s with cfg := some c } e c⟩
  · refine ⟨e, ?_⟩
    by_cases hctl : s.ctl = .uninit
    · simp only [State.setEnabledFlag_ctl, hctl, if_true]; rfl
    · simp only [State.setEnabledFlag_ctl, hctl, if_false]; rfl

/-- Settles O52: sends, `flush` and the framebuffer operations pass the flag through; init and disabling
overwrite it. -/
theorem onlySetPixelOnReadsTheFlag : Obligations.OnlySetPixelOnReadsTheFlag := by
  intro i s t e hother h
  show ∃ e', exec i (s.setEnabledFlag e) = .next (t.setEnabledFlag e')
  cases i.shape s.par.cmd with
  | sends hbs =>
    rw [exec_of_sentBytes hbs] at h
    rw [exec_of_sentBytes (s := s.setEnabledFlag e) hbs]
    exact State.run_map_setEnabledFlag h (State.send_setEnabledFlag ..)
  | beginOp =>
    obtain ⟨e', hresult⟩ := s.beginWith_setEnabledFlag e _ _
    exact ⟨e', State.run_setEnabledFlag h hresult⟩
  | clear => exact State.run_map_setEnabledFlag h rfl
  | setPixel x y color =>
    cases color with
    | true => exact absurd rfl (hother x y)
    | false => exact State.run_map_setEnabledFlag h (State.setPixelAt_off_setEnabledFlag ..)
  | setEnabled on =>
    refine ⟨_, State.run_setEnabledFlag (e' := if s.cfg = none then e else on) h ?_⟩
    simp only [State.setEnabledFlag_cfg]
    cases s.cfg with
    | none => rfl
    | some c => cases on <;> rfl
  | setResistor value =>
    refine State.run_map_setEnabledFlag h ?_
    split
    · rfl
    · exact State.send_setEnabledFlag ..
  | flush => exact State.run_map_setEnabledFlag h (State.flushBox_setEnabledFlag ..)
  | setOrientation r =>
    refine State.run_map_setEnabledFlag h ?_
    cases orientOf r <;> rfl

end Sys2Proof.Machine
end

section
/-! What a delivered byte does to each part of the receiver (20_memory R49 to R55), and what it can do to the display
RAM. -/

namespace Sys2Proof.Machine

/-! ## Draws -/

@[simp] theorem Rx.drawCol_col (r : Rx) : r.drawCol.col = Config.freeCol r.draws := r.setCol_col _
@[simp] theorem Rx.drawCol_page (r : Rx) : r.drawCol.page = r.page := rfl
@[simp] theorem Rx.drawCol_pram (r : Rx) : r.drawCol.pram = r.pram := rfl

@[simp] theorem Rx.drawPointers_col (r : Rx) : r.drawPointers.col = Config.freeCol r.draws := r.setCol_col _
@[simp] theorem Rx.drawPointers_page (r : Rx) : r.drawPointers.page = Config.freePage r.draws := rfl
@[simp] theorem Rx.drawPointers_pram (r : Rx) : r.drawPointers.pram = r.pram := rfl

@[simp] theorem Rx.drawRam_col (r : Rx) : r.drawRam.col = Config.freeCol r.draws := r.setCol_col _
@[simp] theorem Rx.drawRam_page (r : Rx) : r.drawRam.page = r.page := rfl
@[simp] theorem Rx.drawRam_pram (r : Rx) : r.drawRam.pram = Memory.drawn r.draws := rfl

@[simp] theorem Rx.drawAll_col (r : Rx) : r.drawAll.col = Config.freeCol r.draws := r.setCol_col _
@[simp] theorem Rx.drawAll_page (r : Rx) : r.drawAll.page = Config.freePage r.draws := rfl
@[simp] theorem Rx.drawAll_pram (r : Rx) : r.drawAll.pram = Memory.drawn r.draws := rfl

/-! ## Pointers and addresses -/

theorem Rx.inRange_iff (p : Params) (r : Rx) : r.inRange p = true ↔ r.col < p.panelCols ∧ r.page < p.panelPages := by
  simp [Rx.inRange]

/-- Pointers in range name an address inside the display RAM (20_memory R48). -/
theorem pramAddr_lt (p : Params) {page col : Nat} (hcol : col < p.panelCols) (hpage : page < p.panelPages) :
    pramAddr p page col < p.panelPages * p.panelCols := by
  have hrow : (page + 1) * p.panelCols ≤ p.panelPages * p.panelCols := Nat.mul_le_mul_right _ hpage
  rw [Nat.succ_mul] at hrow
  simp only [pramAddr]
  omega

/-- Different places of the display RAM have different addresses (20_memory R48). -/
theorem pramAddr_inj (p : Params) {page page' col col' : Nat} (hcol : col < p.panelCols) (hcol' : col' < p.panelCols) :
    pramAddr p page col = pramAddr p page' col' ↔ page = page' ∧ col = col' := by
  refine ⟨fun h => ?_, by rintro ⟨rfl, rfl⟩; rfl⟩
  have hmod := congrArg (· % p.panelCols) h
  simp only [pramAddr, Nat.mul_add_mod_self_right, Nat.mod_eq_of_lt hcol, Nat.mod_eq_of_lt hcol'] at hmod
  subst hmod
  exact ⟨Nat.eq_of_mul_eq_mul_right (by omega : 0 < p.panelCols) (Nat.add_right_cancel h), rfl⟩

/-! ## Data and argument bytes -/

theorem Rx.data_of_not_inRange {p : Params} {r : Rx} (b : Byte) (h : ¬r.inRange p = true) :
    r.data p b = r.drawRam := if_neg h

theorem Rx.data_pram {p : Params} {r : Rx} (b : Byte) (h : r.inRange p = true) :
    (r.data p b).pram = r.pram.write (pramAddr p r.page r.col) b := by
  simp only [Rx.data, if_pos h]
  split <;> rfl

theorem Rx.data_col {p : Params} {r : Rx} (b : Byte) (h : r.inRange p = true) :
    (r.data p b).col = if r.col + 1 < p.panelCols then r.col + 1 else Config.freeCol r.draws := by
  simp only [Rx.data, if_pos h]
  split
  · exact Rx.setCol_col ..
  · exact Rx.drawCol_col _

@[simp] theorem Rx.data_page (p : Params) (r : Rx) (b : Byte) : (r.data p b).page = r.page := by
  unfold Rx.data
  split
  · dsimp only; split <;> rfl
  · rfl

theorem Rx.argument_pram (p : Params) (r : Rx) :
    (r.argument p).pram =
      if r.inRange p then
        r.pram.write (pramAddr p r.page r.col) (Config.freeByte r.draws (pramAddr p r.page r.col))
      else r.pram := by
  simp only [Rx.argument, Rx.drawCol_pram]
  split <;> rfl

@[simp] theorem Rx.argument_page (p : Params) (r : Rx) : (r.argument p).page = r.page := by
  simp only [Rx.argument, Rx.drawCol_page]
  split <;> rfl

@[simp] theorem Rx.argument_col (p : Params) (r : Rx) : (r.argument p).col = Config.freeCol r.draws := by
  simp only [Rx.argument, Rx.drawCol_col]
  split <;> rfl

/-! ## A delivered byte -/

@[simp] theorem Rx.deliver_low_pram (p : Params) (r : Rx) (b : Byte) :
    (r.deliver p .low b).pram = (r.command p b).pram := rfl
@[simp] theorem Rx.deliver_low_page (p : Params) (r : Rx) (b : Byte) :
    (r.deliver p .low b).page = (r.command p b).page := rfl
@[simp] theorem Rx.deliver_low_col (p : Params) (r : Rx) (b : Byte) :
    (r.deliver p .low b).col = (r.command p b).col := rfl
@[simp] theorem Rx.deliver_low_argNext (p : Params) (r : Rx) (b : Byte) :
    (r.deliver p .low b).argNext = takesValue p.cmd b := rfl
@[simp] theorem Rx.deliver_high_argNext (p : Params) (r : Rx) (b : Byte) :
    (r.deliver p .high b).argNext = false := rfl

/-- A data byte that follows no two-byte command is display data (20_memory R52). -/
theorem Rx.deliver_data (p : Params) {r : Rx} (b : Byte) (h : r.argNext = false) :
    r.deliver p .high b = { r.data p b with argNext := false } := by
  simp [Rx.deliver, h]

/-- A data byte that follows a two-byte command is its argument (20_memory R53). -/
theorem Rx.deliver_argument (p : Params) {r : Rx} (b : Byte) (h : r.argNext = true) :
    r.deliver p .high b = { r.argument p with argNext := false } := by
  simp [Rx.deliver, h]

/-- What a command byte can do to the display RAM: nothing, or system reset made all of it a draw (20_memory R54). -/
theorem Rx.command_pram_cases (p : Params) (r : Rx) (b : Byte) :
    (r.command p b).pram = r.pram ∨ (r.command p b).pram = Memory.drawn r.draws := by
  unfold Rx.command Rx.otherCommand
  split
  · exact .inl rfl
  split
  · exact .inl rfl
  split
  · exact .inl rfl
  split
  · exact .inr rfl
  · exact .inl rfl

/-- What a delivered byte can do to the display RAM: nothing, make all of it a draw, or write one byte inside it
(20_memory R50 to R54). -/
theorem Rx.deliver_pram_cases (p : Params) (r : Rx) (l : Level) (b : Byte) :
    (r.deliver p l b).pram = r.pram ∨ (r.deliver p l b).pram = Memory.drawn r.draws ∨
    ∃ a v, a < p.panelPages * p.panelCols ∧ (r.deliver p l b).pram = r.pram.write a v := by
  have haddr : r.inRange p = true → pramAddr p r.page r.col < p.panelPages * p.panelCols := fun h =>
    pramAddr_lt p ((r.inRange_iff p).1 h).1 ((r.inRange_iff p).1 h).2
  cases l with
  | low => exact (r.command_pram_cases p b).imp_right .inl
  | high =>
    cases harg : r.argNext with
    | true =>
      rw [Rx.deliver_argument p b harg]
      simp only [Rx.argument_pram]
      split
      · next h => exact .inr (.inr ⟨_, _, haddr h, rfl⟩)
      · exact .inl rfl
    | false =>
      rw [Rx.deliver_data p b harg]
      by_cases h : r.inRange p = true
      · exact .inr (.inr ⟨_, _, haddr h, Rx.data_pram b h⟩)
      · exact .inr (.inl (by rw [Rx.data_of_not_inRange b h]; rfl))

end Sys2Proof.Machine
end

section
/-! Both memories stay in canonical form and inside their sizes (20_memory R37, R48). -/

namespace Sys2Proof.Machine

/-- The display RAM is in canonical form, inside its size, and never cleared: what `State.memoryOk` says of it. -/
def Rx.ramOk (p : Params) (r : Rx) : Prop :=
  r.pram.wf (p.panelPages * p.panelCols) = true ∧ r.pram.draw ≠ none

theorem State.memoryOk_iff (s : State) : s.memoryOk ↔ s.fb.wf s.par.size = true ∧ s.rx.ramOk s.par := Iff.rfl

theorem Rx.ramOk_of_drawn (p : Params) {r : Rx} {k : Nat} (h : r.pram = Memory.drawn k) : r.ramOk p := by
  rw [Rx.ramOk, h]
  exact ⟨Memory.drawn_wf _ _, Option.some_ne_none _⟩

theorem Rx.deliver_ramOk {p : Params} {r : Rx} (l : Level) (b : Byte) (hr : r.ramOk p) :
    (r.deliver p l b).ramOk p := by
  obtain hsame | hdrawn | ⟨a, v, ha, hwrite⟩ := r.deliver_pram_cases p l b
  · simpa only [Rx.ramOk, hsame] using hr
  · exact Rx.ramOk_of_drawn p hdrawn
  · rw [Rx.ramOk, hwrite, Memory.write_draw]
    exact ⟨Memory.write_wf _ _ _ _ ha hr.1, hr.2⟩

theorem recvEvent_ramOk {p : Params} (c : Cfg) (ln : Lines) {r : Rx} (e : Event) (hr : r.ramOk p) :
    (recvEvent p c ln r e).ramOk p := by
  cases e with
  | pinLevel pin l =>
    simp only [recvEvent]
    split
    · exact Rx.ramOk_of_drawn p r.drawAll_pram
    · exact hr
  | xfer b =>
    simp only [recvEvent]
    split
    · exact Rx.deliver_ramOk _ _ hr
    · exact hr
  | pinMode | beginTx | endTx | delay => exact hr

theorem recvEvents_ramOk {p : Params} (c : Cfg) (evs : List Event) (ln : Lines) {r : Rx} (hr : r.ramOk p) :
    (recvEvents p c ln r evs).ramOk p := by
  induction evs generalizing ln r with
  | nil => exact hr
  | cons e rest ih => exact ih _ (recvEvent_ramOk c ln e hr)

/-- The framebuffer is cleared or written inside its size, and the receiver takes events. -/
theorem Change.keeps_memoryOk {s t : State} {i : Instr} (hs : s.memoryOk) (h : Change s i t) : t.memoryOk := by
  obtain ⟨hfb, hrx⟩ := s.memoryOk_iff.1 hs
  cases h with
  | raised | ignoredPixel | ignoredFlush | turned | reported => exact hs
  | sent => exact ⟨hfb, recvEvents_ramOk _ _ _ hrx⟩
  | drew b hindex => exact ⟨Memory.write_wf _ _ _ _ hindex hfb, hrx⟩
  | cleared => exact ⟨Memory.zeroed_wf _, hrx⟩
  | began => rw [State.init_eq rfl]; exact ⟨Memory.zeroed_wf _, recvEvents_ramOk _ _ _ hrx⟩
  | enabled hcfg => rw [State.init_eq hcfg]; exact ⟨Memory.zeroed_wf _, recvEvents_ramOk _ _ _ hrx⟩
  | disabled hcfg => rw [State.disable_eq hcfg]; exact ⟨hfb, recvEvents_ramOk _ _ _ hrx⟩

/-- Settles O54: by what each change does to the two memories. -/
theorem stepKeepsMemoryCanonical : Obligations.StepKeepsMemoryCanonical :=
  step_keeps (fun _ _ hs => hs) Change.keeps_memoryOk

end Sys2Proof.Machine
end

section
/-! The receiver is a function of the trace (20_memory R48). -/

namespace Sys2Proof.Machine

/-- Two configurations on the same pins: what the receiver knows of a configuration (20_memory R49, R55). -/
def Cfg.SamePins (c d : Cfg) : Prop := c.cs = d.cs ∧ c.cd = d.cd ∧ c.rst = d.rst

theorem Lines.of_congr {c d : Cfg} (h : c.SamePins d) (t : List Event) : Lines.of c t = Lines.of d t := by
  obtain ⟨hcs, hcd, hrst⟩ := h
  simp only [Lines.of, hcs, hcd, hrst]

theorem Lines.step_congr {c d : Cfg} (h : c.SamePins d) (ln : Lines) (e : Event) : ln.step c e = ln.step d e := by
  obtain ⟨hcs, hcd, hrst⟩ := h
  simp only [Lines.step, hcs, hcd, hrst]

theorem recvEvent_congr {c d : Cfg} (h : c.SamePins d) (p : Params) (ln : Lines) (r : Rx) (e : Event) :
    recvEvent p c ln r e = recvEvent p d ln r e := by
  obtain ⟨-, -, hrst⟩ := h
  cases e <;> simp only [recvEvent, hrst]

theorem recvEvents_congr {c d : Cfg} (h : c.SamePins d) (p : Params) (evs : List Event) (ln : Lines) (r : Rx) :
    recvEvents p c ln r evs = recvEvents p d ln r evs := by
  induction evs generalizing ln r with
  | nil => rfl
  | cons e rest ih => simp only [recvEvents, Lines.step_congr h, recvEvent_congr h, ih]

theorem recv_congr {c d : Cfg} (h : c.SamePins d) (p : Params) (t : List Event) : recv p c t = recv p d t := by
  simp only [recv, Lines.of_congr h, recvEvents_congr h]

/-- No change takes a configuration away (10_state R23). -/
theorem Change.cfg_ne_none {s t : State} {i : Instr} (h : Change s i t) (hs : s.cfg ≠ none) : t.cfg ≠ none := by
  cases h with
  | raised | ignoredPixel | ignoredFlush | sent | drew | turned | cleared | reported | enabled | disabled => exact hs
  | began => exact Option.some_ne_none _

theorem State.rxOk_none {s : State} (hcfg : s.cfg = none) : s.rxOk ↔ s.trace = [] ∧ s.rx = Rx.initial := by
  simp only [State.rxOk, hcfg]

theorem State.rxOk_some {s : State} {c : Cfg} (hcfg : s.cfg = some c) : s.rxOk ↔ s.rx = recv s.par c s.trace := by
  simp only [State.rxOk, hcfg]

/-- On the pins `d`, the receiver of a block that has not moved from other pins is that of its trace so far. -/
theorem State.rx_eq_recv {s : State} {d : Cfg} (hs : s.rxOk) (hpins : ∀ c, s.cfg = some c → c.SamePins d) :
    s.rx = recv s.par d s.trace := by
  cases hcfg : s.cfg with
  | none =>
    obtain ⟨htrace, hrx⟩ := (State.rxOk_none hcfg).1 hs
    rw [htrace, hrx]; rfl
  | some c => rw [← recv_congr (hpins c hcfg)]; exact (State.rxOk_some hcfg).1 hs

/-- An instruction appends to the trace what the receiver takes, and the parameters stay as they are. -/
theorem exec_keeps_rxOk {s t : State} {i : Instr} (hs : s.rxOk) (h : exec i s = .next t)
    (hpins : ∀ c d, s.cfg = some c → t.cfg = some d → c.SamePins d) : t.rxOk := by
  obtain ⟨evs, htrace, hrx⟩ := traceGrowsAndReceiverFollows i s t h
  obtain ⟨hpar, -⟩ := onlyBeginWritesTheConfiguration i s t h
  cases hcfg : t.cfg with
  | none =>
    rw [hcfg] at hrx
    obtain ⟨hnil, hsame⟩ := hrx
    have hnone : s.cfg = none := by
      by_contra hsome
      exact (exec_change h).cfg_ne_none hsome hcfg
    rw [State.rxOk_none hcfg, htrace, hnil, hsame, List.append_nil]
    exact (State.rxOk_none hnone).1 hs
  | some d =>
    rw [hcfg] at hrx
    rw [State.rxOk_some hcfg, hpar, htrace, recv_append, hrx,
      State.rx_eq_recv hs fun c hc => hpins c d hc hcfg]

/-- Settles O57: a step runs an instruction with the entry used up, or waits. -/
theorem stepKeepsReceiverAFunctionOfTheTrace : Obligations.StepKeepsReceiverAFunctionOfTheTrace := by
  intro s t hs h hpins
  obtain rfl | ⟨i, rest, h⟩ := step_next_cases h
  · exact hs
  · exact exec_keeps_rxOk (s := { s with input := rest }) hs h hpins

end Sys2Proof.Machine
end

section
/-! No index leaves the framebuffer (20_memory R37): no operation ends with the fault `BAD_INDEX`. -/

namespace Sys2Proof.Machine

/-- An operation called in state `s` ends without the fault `BAD_INDEX`. -/
def State.KeepsIndex (s : State) (result : Except FaultCode State) : Prop :=
  (s.settle result).fault ≠ some .badIndex

theorem State.keepsIndex_ok {s t : State} (hs : s.fault = none) (ht : t.fault = s.fault) :
    s.KeepsIndex (.ok t) := by
  simp [State.KeepsIndex, ht, hs]

theorem State.keepsIndex_error (s : State) {code : FaultCode} (hcode : code ≠ .badIndex) :
    s.KeepsIndex (.error code) := by
  simpa [State.KeepsIndex] using hcode

theorem State.send_keepsIndex {s : State} (hs : s.fault = none) (bs : List (Level × Byte)) :
    s.KeepsIndex (s.send bs) := by
  cases hcfg : s.cfg with
  | none => rw [s.send_none bs hcfg]; exact s.keepsIndex_error (by decide)
  | some c => rw [s.send_some c bs hcfg]; exact State.keepsIndex_ok hs rfl

theorem State.beginWith_keepsIndex {s : State} (hs : s.fault = none) (transport : Bool) (c : Cfg) :
    s.KeepsIndex (s.beginWith transport c) := by
  unfold State.beginWith
  split
  · split
    · exact s.keepsIndex_error (by decide)
    · exact State.keepsIndex_ok hs rfl
  · split
    · exact State.keepsIndex_ok hs rfl
    · exact s.keepsIndex_error (by decide)

/-- The pixel a `setPixel` writes lies inside the buffer (20_memory R39, 41_framebuffer R92). -/
theorem State.setPixelAt_keepsIndex {s : State} (hs : s.fault = none) (x y : Int) (color : Bool) :
    s.KeepsIndex (s.setPixelAt x y color) := by
  obtain ⟨-, hresult⟩ | ⟨i, k, -, -, -, hresult⟩ := s.setPixelAt_cases x y color
  · rw [hresult]; exact State.keepsIndex_ok hs rfl
  · rw [hresult]
    refine State.keepsIndex_ok hs ?_
    cases color <;> cases s.enabled <;> rfl

/-- The bytes a `flush` reads lie inside the buffer (42_flush R104, R105). -/
theorem State.flushBox_keepsIndex {s : State} (hs : s.fault = none) (x0 y0 x1 y1 : Int) :
    s.KeepsIndex (s.flushBox x0 y0 x1 y1) := by
  obtain ⟨-, hresult⟩ | ⟨-, -, hresult⟩ | ⟨-, -, -, hresult⟩ | ⟨-, -, -, -, hresult⟩ | ⟨c, -, -, -, -, hresult⟩ :=
    s.flushBox_cases x0 y0 x1 y1 <;> rw [hresult]
  · exact State.keepsIndex_ok hs rfl
  · exact State.keepsIndex_ok hs rfl
  · exact s.keepsIndex_error (by decide)
  · exact s.keepsIndex_error (by decide)
  · exact State.keepsIndex_ok hs rfl

/-- An instruction ends as its operation does. -/
theorem State.fault_ne_badIndex_of_run {s t : State} {result : Except FaultCode State} (h : s.run result = .next t)
    (hresult : s.fault = none → s.KeepsIndex result) : t.fault ≠ some .badIndex := by
  obtain ⟨hs, rfl⟩ := (s.run_next_iff t result).1 h
  exact hresult hs

/-- Settles O11: the reads and writes of `setPixel` and `flush` stay in range, and no other operation indexes. -/
theorem noInstructionRaisesBadIndex : Obligations.NoInstructionRaisesBadIndex := by
  intro i s t h
  cases i.shape s.par.cmd with
  | sends hbs =>
    rw [exec_of_sentBytes hbs] at h
    exact State.fault_ne_badIndex_of_run h fun hs => State.send_keepsIndex hs _
  | beginOp => exact State.fault_ne_badIndex_of_run h fun hs => State.beginWith_keepsIndex hs _ _
  | clear => exact State.fault_ne_badIndex_of_run h fun hs => State.keepsIndex_ok hs rfl
  | setPixel => exact State.fault_ne_badIndex_of_run h fun hs => State.setPixelAt_keepsIndex hs _ _ _
  | flush => exact State.fault_ne_badIndex_of_run h fun hs => State.flushBox_keepsIndex hs _ _ _ _
  | setEnabled on =>
    refine State.fault_ne_badIndex_of_run h fun hs => ?_
    split
    · exact s.keepsIndex_error (by decide)
    · refine State.keepsIndex_ok hs ?_
      cases on <;> rfl
  | setResistor =>
    refine State.fault_ne_badIndex_of_run h fun hs => ?_
    split
    · exact s.keepsIndex_error (by decide)
    · exact State.send_keepsIndex hs _
  | setOrientation =>
    refine State.fault_ne_badIndex_of_run h fun hs => ?_
    split
    · exact s.keepsIndex_error (by decide)
    · exact State.keepsIndex_ok hs rfl

end Sys2Proof.Machine
end

section
/-! Pixels as bits of the framebuffer (20_memory R39, R43). -/

namespace Sys2Proof.Machine

/-! ## Setting a pixel again -/

/-- The byte a pixel write leaves where it found `b`: "on" is gated by the enabled flag (41_framebuffer R93). -/
def mutatedByte (enabled color : Bool) (k : Nat) (b : Byte) : Byte :=
  if color then if enabled then setBit b k else b else clearBit b k

theorem setBit_setBit (b : Byte) (k : Nat) : setBit (setBit b k) k = setBit b k := by
  simp only [setBit, BitVec.or_assoc, BitVec.or_self]

theorem clearBit_clearBit (b : Byte) (k : Nat) : clearBit (clearBit b k) k = clearBit b k := by
  simp only [clearBit, BitVec.and_assoc, BitVec.and_self]

theorem mutatedByte_mutatedByte (enabled color : Bool) (k : Nat) (b : Byte) :
    mutatedByte enabled color k (mutatedByte enabled color k b) = mutatedByte enabled color k b := by
  cases color with
  | false => exact clearBit_clearBit b k
  | true =>
    cases enabled with
    | false => rfl
    | true => exact setBit_setBit b k

/-- What a pixel write with a given target leaves at address `j`, where it found `b` (41_framebuffer R92, R93). -/
def mutatedRead (target : Option (Int × Nat)) (enabled color : Bool) (j : Nat) (b : Byte) : Byte :=
  match target with
  | none => b
  | some (i, k) => if j = i.toNat then mutatedByte enabled color k b else b

theorem mutatedRead_mutatedRead (target : Option (Int × Nat)) (enabled color : Bool) (j : Nat) (b : Byte) :
    mutatedRead target enabled color j (mutatedRead target enabled color j b) =
      mutatedRead target enabled color j b := by
  cases target with
  | none => rfl
  | some ik => by_cases hj : j = ik.1.toNat <;> simp [mutatedRead, hj, mutatedByte_mutatedByte]

/-- Writing the changed byte back is what a pixel write leaves at its target. -/
theorem Memory.read_write_mutated (m : Memory) (i : Int) (k : Nat) (enabled color : Bool) (j : Nat) :
    (m.write i.toNat (mutatedByte enabled color k (m.read i.toNat))).read j =
      mutatedRead (some (i, k)) enabled color j (m.read j) := by
  by_cases hj : j = i.toNat <;> simp [Memory.read_write, mutatedRead, hj]

/-- What a `setPixel` that answers a next state leaves: what it decides by as it was, and of the framebuffer the target
byte changed (41_framebuffer R94). -/
theorem execSetPixel_reads {x y : BitVec 16} {color : Bool} {s t : State} (h : exec (.setPixel x y color) s = .next t) :
    t.par = s.par ∧ t.orient = s.orient ∧ t.enabled = s.enabled ∧
    ∀ j, t.fb.read j =
      mutatedRead (pixelTarget s.par s.orient (sext16 x) (sext16 y)) s.enabled color j (s.fb.read j) := by
  obtain ⟨-, rfl⟩ := (s.run_next_iff t _).1 h
  obtain ⟨htarget, hresult⟩ | ⟨i, k, htarget, -, -, hresult⟩ := s.setPixelAt_cases (sext16 x) (sext16 y) color <;>
    rw [hresult, htarget]
  · exact ⟨rfl, rfl, rfl, fun _ => rfl⟩
  · cases color with
    | false => exact ⟨rfl, rfl, rfl, s.fb.read_write_mutated i k s.enabled false⟩
    | true =>
      cases henabled : s.enabled with
      | false => exact ⟨rfl, rfl, henabled, fun j => (ite_self _).symm⟩
      | true => exact ⟨rfl, rfl, rfl, s.fb.read_write_mutated i k true true⟩

/-- Settles O25: the second call has the target and the flag of the first, and changing the byte again keeps it. -/
theorem setPixelIsIdempotent : Obligations.SetPixelIsIdempotent := by
  intro x y color s t u hst htu j
  obtain ⟨hpar, horient, henabled, ht⟩ := execSetPixel_reads hst
  obtain ⟨-, -, -, hu⟩ := execSetPixel_reads htu
  rw [hu, ht, hpar, horient, henabled, mutatedRead_mutatedRead]

/-! ## The pixel addresses -/

theorem pixaddr_eq (p : Params) (q : Int × Int) :
    pixaddr p q = (q.1 + q.2 / 8 * (p.width : Int), (q.2 % 8).toNat) := by
  rw [pixaddr, floorDiv_eq _ _ (by norm_num)]

/-- The pixel that a bit of a framebuffer byte holds (20_memory R39). -/
def addrPixel (p : Params) (index : Int) (bit : Nat) : Int × Int :=
  (index % (p.width : Int), 8 * (index / (p.width : Int)) + bit)

theorem addrPixel_inPhysical (p : Params) {index : Int} {bit : Nat} (h0 : 0 ≤ index)
    (hsize : index < (p.width * p.pages : Nat)) (hbit : bit < 8) : inPhysical p (addrPixel p index bit) = true := by
  have hwidth : (0 : Int) < p.width := by have := p.width_pos; omega
  have hpage : index / (p.width : Int) < p.pages :=
    Int.ediv_lt_of_lt_mul hwidth (by rw [mul_comm]; exact_mod_cast hsize)
  have hpage0 : 0 ≤ index / (p.width : Int) := Int.ediv_nonneg h0 hwidth.le
  have hheight := p.height_eq
  refine (inPhysical_iff p _).2 ⟨⟨Int.emod_nonneg _ hwidth.ne', Int.emod_lt_of_pos _ hwidth⟩, ?_, ?_⟩ <;>
    simp only [addrPixel] <;> omega

theorem pixaddr_addrPixel (p : Params) (index : Int) {bit : Nat} (hbit : bit < 8) :
    pixaddr p (addrPixel p index bit) = (index, bit) := by
  have hrow : (8 * (index / (p.width : Int)) + bit) / 8 = index / (p.width : Int) := by omega
  have hbit' : ((8 * (index / (p.width : Int)) + bit) % 8).toNat = bit := by omega
  simp only [pixaddr_eq, addrPixel, hrow, hbit', Prod.mk.injEq, and_true]
  rw [mul_comm]
  exact Int.emod_add_mul_ediv _ _

/-- Different pixels have different addresses (20_memory R39). -/
theorem pixaddr_injective {p : Params} {q r : Int × Int} (hq : inPhysical p q = true) (hr : inPhysical p r = true)
    (h : pixaddr p q = pixaddr p r) : q = r := by
  obtain ⟨hqx, hqy, -⟩ := (inPhysical_iff p q).1 hq
  obtain ⟨hrx, hry, -⟩ := (inPhysical_iff p r).1 hr
  rw [pixaddr_eq, pixaddr_eq, Prod.mk.injEq] at h
  obtain ⟨hindex, hbit⟩ := h
  obtain ⟨hx, hpage⟩ := index_injective p _ _ _ _ hqx hrx hindex
  exact Prod.ext hx (by omega)

/-- Settles O27: `addrPixel` is the inverse of `pixaddr`. -/
theorem pixaddrIsABijection : Obligations.PixaddrIsABijection := by
  refine fun p => ⟨fun q hq => ?_, fun index bit h0 hsize hbit => ?_, fun s q hpar _ => ?_⟩
  · obtain ⟨⟨hlow, hhigh⟩, -⟩ := pixaddr_in_range p q hq
    refine ⟨by rw [pixaddr_eq], hlow, hhigh, ?_⟩
    rw [pixaddr_eq]
    exact Int.toNat_of_nonneg (by omega)
  · refine ⟨addrPixel p index bit, ⟨addrPixel_inPhysical p h0 hsize hbit, pixaddr_addrPixel p index hbit⟩, ?_⟩
    rintro q ⟨hq, haddr⟩
    exact pixaddr_injective hq (addrPixel_inPhysical p h0 hsize hbit)
      (haddr.trans (pixaddr_addrPixel p index hbit).symm)
  · rw [State.pixel, hpar, pixaddr_eq]

end Sys2Proof.Machine
end

section
/-! The byte of each command row is read back as the instruction it was sent for (30_encoding R70, R82). -/

namespace Sys2Proof

/-! ## Rows by their place in the table

The places are those of 30_encoding R70, from 0 on. -/

theorem CommandBytes.mem_patterns {c : CommandBytes} {n : Nat} {p : Pattern} {instr : Byte → Instr}
    (hrow : c.rows[n]? = some (p, instr)) : p ∈ c.patterns :=
  List.mem_map_of_mem (List.mem_of_getElem? hrow)

/-- A byte that fits a row and is read by that row as an instruction decodes to it. -/
theorem decodeCommand_row_at {c : CommandBytes} (h : c.legal = true) {b : Byte} {i : Instr} {p : Pattern}
    {instr : Byte → Instr} (n : Nat) (hrow : c.rows[n]? = some (p, instr)) (hfits : p.fits b = true)
    (hi : instr b = i) : decodeCommand c b = .ok i :=
  (decodeCommand_of_fits h (List.mem_of_getElem? hrow) hfits).trans (congrArg Except.ok hi)

/-- A row whose low bits are a field gives the field back. -/
theorem field_of_row {c : CommandBytes} (h : c.legal = true) {m v : Byte} {instr : Byte → Instr} (n : Nat)
    (hrow : c.rows[n]? = some (⟨m, v⟩, instr)) {w : Nat} (hw : w ≤ 8) (hmask : m.setWidth w = 0#w) (f : BitVec w) :
    (v ||| f.setWidth 8).setWidth w = f :=
  setWidth_or_field w v m f hw (c.value_masked h (CommandBytes.mem_patterns hrow)) hmask

/-- A row whose low bits are a field is read as its instruction with the field. -/
theorem decodeCommand_field_row {c : CommandBytes} (h : c.legal = true) {m v : Byte} {w : Nat}
    {make : BitVec w → Instr} (n : Nat) (hrow : c.rows[n]? = some (⟨m, v⟩, fun b => make (b.setWidth w))) (hw : w ≤ 8)
    (hmask : m.setWidth w = 0#w) {f : BitVec w} (hfits : Pattern.fits ⟨m, v⟩ (v ||| f.setWidth 8) = true) :
    decodeCommand c (v ||| f.setWidth 8) = .ok (make f) :=
  decodeCommand_row_at h n hrow hfits (congrArg make (field_of_row h n hrow hw hmask f))

/-- A row with a one-bit field at bit `k` is read as its instruction with the bit. -/
theorem decodeCommand_bit_row {c : CommandBytes} (h : c.legal = true) {m v : Byte} {k : Nat}
    {make : Bool → Instr} (n : Nat) (hrow : c.rows[n]? = some (⟨m, v⟩, fun b => make (b.getLsbD k)))
    (hmask : m.getLsbD k = false) {f : Byte} {bit : Bool} (hf : f.getLsbD k = bit)
    (hfits : Pattern.fits ⟨m, v⟩ (v ||| f) = true) : decodeCommand c (v ||| f) = .ok (make bit) :=
  decodeCommand_row_at h n hrow hfits (congrArg make
    ((bit_or_field _ _ f k (c.value_masked h (CommandBytes.mem_patterns hrow)) hmask).trans hf))

theorem bit1_getLsbD (b : Bool) : (bit1 b).getLsbD 0 = b := by cases b <;> rfl

theorem bit1_shifted_getLsbD (b : Bool) : (bit1 b <<< 3).getLsbD 3 = b := by cases b <;> rfl

/-! ## Every command byte -/

/-- A framed command byte is read as the instruction that frames it. -/
theorem decodeCommand_framedByte {c : CommandBytes} (h : c.legal = true) {i : Instr} {b : Byte}
    (hb : i.framedByte c = some (.low, b)) : decodeCommand c b = .ok i := by
  cases i with
  | cmdColLsb l =>
    cases hb; exact decodeCommand_field_row h 0 rfl (by decide) (by decide) (fits_colLsb h l)
  | cmdColMsb f =>
    cases hb; exact decodeCommand_field_row h 1 rfl (by decide) (by decide) (fits_colMsb h f)
  | cmdResistor r =>
    cases hb; exact decodeCommand_field_row h 2 rfl (by decide) (by decide) (fits_resistor h r)
  | cmdPower p =>
    cases hb; exact decodeCommand_field_row h 3 rfl (by decide) (by decide) (fits_power h p)
  | cmdScroll s =>
    cases hb; exact decodeCommand_field_row h 4 rfl (by decide) (by decide) (fits_scroll h s)
  | cmdEv => cases hb; exact decodeCommand_row_at h 5 rfl (p := patEv) (by decide) rfl
  | cmdSeg m =>
    cases hb; exact decodeCommand_bit_row h 6 rfl (by decide) (bit1_getLsbD m) (fits_seg h m)
  | cmdBias v =>
    cases hb; exact decodeCommand_bit_row h 7 rfl (by decide) (bit1_getLsbD v) (fits_bias h v)
  | cmdAllpix => cases hb; exact decodeCommand_row_at h 8 rfl (fits_allpix h) rfl
  | cmdInverse v =>
    cases hb; exact decodeCommand_bit_row h 9 rfl (by decide) (bit1_getLsbD v) (fits_inverse h v)
  | cmdDisplay d =>
    cases hb; exact decodeCommand_bit_row h 10 rfl (by decide) (bit1_getLsbD d) (fits_display h d)
  | cmdPage p =>
    cases hb; exact decodeCommand_field_row h 11 rfl (by decide) (by decide) (fits_page h p)
  | cmdCom m =>
    cases hb; exact decodeCommand_bit_row h 12 rfl (by decide) (bit1_shifted_getLsbD m) (fits_com h m)
  | cmdSysreset => cases hb; exact decodeCommand_row_at h 13 rfl (fits_sysreset h) rfl
  | cmdApc => cases hb; exact decodeCommand_row_at h 14 rfl (fits_apc h) rfl
  | beginOp | clear | setPixel | setEnabled | setContrast | setResistor | setInverted | flush | setOrientation
  | sendCommand | sendData | evValue | apcValue | displayData => cases hb

/-- Every command byte instruction is framed with CD LOW (30_encoding R68). -/
theorem Instr.framedByte_of_isCommandByte (c : CommandBytes) {i : Instr} (h : i.isCommandByte = true) :
    ∃ b, i.framedByte c = some (.low, b) := by
  cases i with
  | cmdColLsb | cmdColMsb | cmdResistor | cmdPower | cmdScroll | cmdEv | cmdSeg | cmdBias | cmdAllpix | cmdInverse
  | cmdDisplay | cmdPage | cmdCom | cmdSysreset | cmdApc => exact ⟨_, rfl⟩
  | beginOp | clear | setPixel | setEnabled | setContrast | setResistor | setInverted | flush | setOrientation
  | sendCommand | sendData | evValue | apcValue | displayData => cases h

/-- Of two rows, a byte that is read by one does not fit the other. -/
theorem not_fits_of_decodeCommand {c : CommandBytes} (h : c.legal = true) {b : Byte} {i : Instr} {p : Pattern}
    {instr : Byte → Instr} (hi : decodeCommand c b = .ok i) (n : Nat) (hrow : c.rows[n]? = some (p, instr))
    (hne : i ≠ instr b) : p.fits b = false := by
  refine Bool.eq_false_iff.2 fun hfits => hne (Except.ok.inj (hi.symm.trans ?_))
  exact decodeCommand_row_at h n hrow hfits rfl

/-- The byte of system reset is read as system reset. -/
theorem decodeCommand_sysreset {c : CommandBytes} (h : c.legal = true) :
    decodeCommand c c.sysreset = .ok .cmdSysreset :=
  decodeCommand_framedByte h (i := .cmdSysreset) rfl

end Sys2Proof

namespace Sys2Proof.Machine

/-- Only electronic volume and advanced program control take a value byte (30_encoding R69). -/
theorem takesValue_iff (c : CommandBytes) (b : Byte) : takesValue c b = true ↔ b = Config.cmdEv ∨ b = c.apc := by
  simp [takesValue]

theorem takesValue_pageByte {c : CommandBytes} (h : c.legal = true) (f : BitVec 4) :
    takesValue c (pageByte c f) = false := by
  refine Bool.eq_false_iff.2 fun htakes => ?_
  have hpage := decodeCommand_framedByte h (i := .cmdPage f) rfl
  obtain hev | hapc := (takesValue_iff c _).1 htakes
  · rw [hev, decodeCommand_framedByte h (i := .cmdEv) rfl] at hpage; cases hpage
  · rw [hapc, decodeCommand_framedByte h (i := .cmdApc) rfl] at hpage; cases hpage

/-! ## What the receiver does with each command byte (20_memory R50, R51, R54) -/

theorem Rx.command_colMsb {p : Params} (h : p.cmd.legal = true) (r : Rx) (f : BitVec 4) :
    r.command p (colMsbByte p.cmd f) = r.setColHi f := by
  have hfield : (colMsbByte p.cmd f).setWidth 4 = f := field_of_row h 1 rfl (by decide) (by decide) f
  rw [Rx.command, if_pos (fits_colMsb h f), hfield]

theorem Rx.command_colLsb {p : Params} (h : p.cmd.legal = true) (r : Rx) (l : BitVec 4) :
    r.command p (colLsbByte p.cmd l) = r.setColLo l := by
  have hfield : (colLsbByte p.cmd l).setWidth 4 = l := field_of_row h 0 rfl (by decide) (by decide) l
  have hread := decodeCommand_framedByte h (i := .cmdColLsb l) rfl
  rw [Rx.command, if_neg (Bool.eq_false_iff.1 (not_fits_of_decodeCommand h hread 1 rfl (by simp))),
    if_pos (fits_colLsb h l), hfield]

theorem Rx.command_page {p : Params} (h : p.cmd.legal = true) (r : Rx) (n : BitVec 4) :
    r.command p (pageByte p.cmd n) = { r with page := n.toNat } := by
  have hfield : (pageByte p.cmd n).setWidth 4 = n := field_of_row h 11 rfl (by decide) (by decide) n
  have hread := decodeCommand_framedByte h (i := .cmdPage n) rfl
  rw [Rx.command, if_neg (Bool.eq_false_iff.1 (not_fits_of_decodeCommand h hread 1 rfl (by simp))),
    if_neg (Bool.eq_false_iff.1 (not_fits_of_decodeCommand h hread 0 rfl (by simp))), if_pos (fits_page h n), hfield]

theorem Rx.command_page_col {p : Params} (h : p.cmd.legal = true) (r : Rx) (n : BitVec 4) :
    (r.command p (pageByte p.cmd n)).col = r.col := by
  rw [Rx.command_page h]; rfl

theorem Rx.command_page_pram {p : Params} (h : p.cmd.legal = true) (r : Rx) (n : BitVec 4) :
    (r.command p (pageByte p.cmd n)).pram = r.pram := by
  rw [Rx.command_page h]

/-- A command byte other than the column and page commands fits none of their rows. -/
theorem Rx.command_other {p : Params} (h : p.cmd.legal = true) (r : Rx) {i : Instr} {b : Byte}
    (hb : decodeCommand p.cmd b = .ok i) (hmsb : ∀ f, i ≠ .cmdColMsb f) (hlsb : ∀ l, i ≠ .cmdColLsb l)
    (hpage : ∀ n, i ≠ .cmdPage n) : r.command p b = r.otherCommand p b := by
  simp only [Rx.command, not_fits_of_decodeCommand h hb 1 rfl (hmsb _), not_fits_of_decodeCommand h hb 0 rfl (hlsb _),
    not_fits_of_decodeCommand h hb 11 rfl (hpage _), Bool.false_eq_true, if_false]

@[simp] theorem Rx.setColHi_colHi (r : Rx) (f : BitVec 4) : (r.setColHi f).colHi = f.toNat := rfl
@[simp] theorem Rx.setColHi_page (r : Rx) (f : BitVec 4) : (r.setColHi f).page = r.page := rfl
@[simp] theorem Rx.setColHi_pram (r : Rx) (f : BitVec 4) : (r.setColHi f).pram = r.pram := rfl
@[simp] theorem Rx.setColLo_page (r : Rx) (l : BitVec 4) : (r.setColLo l).page = r.page := rfl
@[simp] theorem Rx.setColLo_pram (r : Rx) (l : BitVec 4) : (r.setColLo l).pram = r.pram := rfl

theorem Rx.col_mod (r : Rx) : r.col % 16 = r.colLo.toNat := by
  have := r.colLo.isLt
  simp only [Rx.col]
  omega

theorem Rx.col_div (r : Rx) : r.col / 16 = r.colHi := by
  have := r.colLo.isLt
  simp only [Rx.col]
  omega

theorem Rx.setColHi_col (r : Rx) (f : BitVec 4) : (r.setColHi f).col = 16 * f.toNat + r.col % 16 := by
  rw [r.col_mod]; rfl

theorem Rx.setColLo_col (r : Rx) (l : BitVec 4) : (r.setColLo l).col = 16 * (r.col / 16) + l.toNat := by
  rw [r.col_div]; rfl

/-- The two nibbles of a byte make up the byte (30_encoding R71). -/
theorem nibbles_toNat (v : Byte) : 16 * (v.extractLsb' 4 4).toNat + (v.extractLsb' 0 4).toNat = v.toNat := by
  have := v.isLt
  simp only [BitVec.extractLsb'_toNat, Nat.shiftRight_eq_div_pow]
  omega

/-! ## Bytes that are delivered (20_memory R49) -/

/-- Sending bytes leaves the reset line as it was, so the next byte is delivered too. -/
theorem State.linkedOn_frames {s : State} {c : Cfg} (h : s.linkedOn c) (mode : Fin 4) (bs : List (Level × Byte)) :
    (s.withEvents c (frames mode c bs)).linkedOn c := by
  obtain ⟨hcfg, hpins, hhigh⟩ := h
  obtain ⟨-, hcs, hcd⟩ := badPins_eq_false hpins
  refine ⟨hcfg, hpins, fun pin hpin => ?_⟩
  have hquiet : lastLevel (frames mode c bs) pin = none :=
    lastLevel_frames_other mode c bs pin (fun h => hcs (h ▸ hpin)) (fun h => hcd (h ▸ hpin))
  have := hhigh pin hpin
  simpa only [State.withEvents, lineLevel, lastLevel_append, hquiet, Option.none_or] using this

/-- The receiver after several delivered bytes. -/
def Rx.deliverAll (p : Params) (r : Rx) (bs : List (Level × Byte)) : Rx :=
  bs.foldl (fun r x => r.deliver p x.1 x.2) r

/-- The frames of several bytes deliver them in order. -/
theorem State.withEvents_frames_rx {s : State} {c : Cfg} (h : s.linkedOn c) (bs : List (Level × Byte)) :
    (s.withEvents c (frames s.par.spiMode c bs)).rx = s.rx.deliverAll s.par bs := by
  have hrst := State.linkedOn_rst h
  obtain ⟨-, hpins, -⟩ := h
  exact recvEvents_frames _ _ _ _ _ _ hpins hrst

/-- A byte row runs by its byte being delivered, and the next byte will be delivered too. -/
theorem exec_framed_delivers {i : Instr} {x : Level × Byte} {s : State} {c : Cfg} (hfault : s.fault = none)
    (hlink : s.linkedOn c) (hx : i.framedByte s.par.cmd = some x) :
    ∃ t, exec i s = .next t ∧ t.rx = s.rx.deliver s.par x.1 x.2 ∧
      t.fault = none ∧ t.linkedOn c ∧ t.par = s.par := by
  refine ⟨s.withEvents c (frames s.par.spiMode c [x]), ?_, State.withEvents_frames_rx hlink [x], hfault,
    State.linkedOn_frames hlink _ _, rfl⟩
  rw [exec_framed i x s hx, s.run_of_safe _ hfault, s.send_some c _ hlink.1, s.emit_eq_withEvents c _ hlink.1,
    State.settle_ok]

/-! ## The column and page commands -/

/-- Settles O17: each column command sets its part of the pointer, and the pair sets both. -/
theorem columnCommandsSetThePointer : Obligations.ColumnCommandsSetThePointer := by
  refine ⟨fun f s c hfault hlink hlegal => ?_, fun l s c hfault hlink hlegal => ?_,
    fun v s c hfault hlink hlegal => ?_⟩
  · obtain ⟨t, hexec, hrx, -⟩ := exec_framed_delivers (i := .cmdColMsb f) hfault hlink rfl
    refine ⟨t, hexec, ?_⟩
    rw [hrx, Rx.deliver_low_col, Rx.deliver_low_page, Rx.deliver_low_pram, Rx.command_colMsb hlegal]
    exact ⟨Rx.setColHi_col .., Rx.setColHi_page .., Rx.setColHi_pram ..⟩
  · obtain ⟨t, hexec, hrx, -⟩ := exec_framed_delivers (i := .cmdColLsb l) hfault hlink rfl
    refine ⟨t, hexec, ?_⟩
    rw [hrx, Rx.deliver_low_col, Rx.deliver_low_page, Rx.deliver_low_pram, Rx.command_colLsb hlegal]
    exact ⟨Rx.setColLo_col .., Rx.setColLo_page .., Rx.setColLo_pram ..⟩
  · obtain ⟨t, htexec, htrx, htfault, htlink, htpar⟩ :=
      exec_framed_delivers (i := .cmdColMsb (v.extractLsb' 4 4)) hfault hlink rfl
    obtain ⟨u, huexec, hurx, -⟩ := exec_framed_delivers (i := .cmdColLsb (v.extractLsb' 0 4)) htfault htlink rfl
    refine ⟨t, u, htexec, huexec, ?_⟩
    rw [hurx, htpar, Rx.deliver_low_col, Rx.command_colLsb hlegal, Rx.setColLo_col, htrx, Rx.deliver_low_col,
      Rx.command_colMsb hlegal, Rx.col_div, Rx.setColHi_colHi, nibbles_toNat]

/-- Settles O18: the page command's byte is read as the page command. -/
theorem pageCommandSetsThePage : Obligations.PageCommandSetsThePage := by
  intro n s c hfault hlink hlegal
  obtain ⟨t, hexec, hrx, -⟩ := exec_framed_delivers (i := .cmdPage n) hfault hlink rfl
  refine ⟨t, hexec, ?_⟩
  rw [hrx, Rx.deliver_low_page, Rx.deliver_low_col, Rx.deliver_low_pram]
  exact ⟨by rw [Rx.command_page hlegal], Rx.command_page_col hlegal .., Rx.command_page_pram hlegal ..⟩

/-! ## Every other command -/

theorem Rx.otherCommand_col (p : Params) (r : Rx) (b : Byte) : (r.otherCommand p b).col = Config.freeCol r.draws := by
  unfold Rx.otherCommand
  split
  · exact r.drawAll_col
  · exact r.drawPointers_col

theorem Rx.otherCommand_page (p : Params) (r : Rx) (b : Byte) :
    (r.otherCommand p b).page = Config.freePage r.draws := by
  unfold Rx.otherCommand
  split <;> rfl

theorem Rx.otherCommand_pram (p : Params) (r : Rx) (b : Byte) :
    (r.otherCommand p b).pram = if b = p.cmd.sysreset then Memory.drawn r.draws else r.pram := by
  unfold Rx.otherCommand
  split <;> rfl

/-- Settles O19: the byte of such an instruction is read as it, so it is no column or page command, and it is the byte
of system reset for system reset alone. -/
theorem otherCommandsLosePointersAndSystemResetTheRam :
    Obligations.OtherCommandsLosePointersAndSystemResetTheRam := by
  intro i s c hfault hlink hlegal hcommand hlsb hmsb hpage
  obtain ⟨b, hb⟩ := Instr.framedByte_of_isCommandByte s.par.cmd hcommand
  have hread := decodeCommand_framedByte hlegal hb
  have hsysreset : b = s.par.cmd.sysreset ↔ i = .cmdSysreset := by
    constructor
    · rintro rfl
      exact Except.ok.inj (hread.symm.trans (decodeCommand_sysreset hlegal))
    · rintro rfl
      cases hb; rfl
  obtain ⟨t, hexec, hrx, -⟩ := exec_framed_delivers hfault hlink hb
  refine ⟨t, hexec, ?_⟩
  simp only [hrx, Rx.deliver_low_col, Rx.deliver_low_page, Rx.deliver_low_pram,
    Rx.command_other hlegal _ hread hmsb hlsb hpage, Rx.otherCommand_col, Rx.otherCommand_page,
    Rx.otherCommand_pram, hsysreset, true_and]
  exact ⟨fun hother => if_neg hother, fun hreset a => by rw [if_pos hreset, Memory.drawn_read]⟩

end Sys2Proof.Machine
end

section
/-! Data bytes at the receiver: display data and argument bytes (20_memory R52, R53). -/

namespace Sys2Proof.Machine

/-- The display RAM after an argument byte: the byte under pointers in range is a free value (20_memory R53). -/
theorem Rx.argument_pram_read (p : Params) (r : Rx) (a : Nat) :
    (r.argument p).pram.read a =
      if a = pramAddr p r.page r.col ∧ r.inRange p = true then Config.freeByte r.draws a else r.pram.read a := by
  rw [Rx.argument_pram]
  by_cases hin : r.inRange p = true
  · by_cases ha : a = pramAddr p r.page r.col <;> simp [hin, ha, Memory.read_write]
  · simp [hin]

/-- Settles O20: the byte is display data, in range or not. -/
theorem dataByteWritesDisplayRam : Obligations.DataByteWritesDisplayRam := by
  intro d s c hfault hlink harg
  obtain ⟨t, hexec, hrx, -⟩ := exec_framed_delivers (i := .displayData d) hfault hlink rfl
  rw [Rx.deliver_data s.par d harg] at hrx
  have hcol : t.rx.col = (s.rx.data s.par d).col := by rw [hrx]; rfl
  refine ⟨t, hexec, by rw [hrx]; exact s.rx.data_page s.par d, fun hcolumn hpage => ?_, fun hout => ?_⟩
  · have hin := (s.rx.inRange_iff s.par).2 ⟨hcolumn, hpage⟩
    refine ⟨fun a => ?_, hcol.trans (Rx.data_col d hin)⟩
    rw [hrx, Rx.data_pram d hin, Memory.read_write]
    rfl
  · rw [← s.rx.inRange_iff] at hout
    rw [Rx.data_of_not_inRange d hout] at hrx hcol
    exact ⟨fun a => by rw [hrx]; rfl, hcol.trans s.rx.drawRam_col⟩

/-- Settles O21: after the two commands that take a value byte the receiver takes a data byte as the argument. -/
theorem argumentByteIsNotStoredAsData : Obligations.ArgumentByteIsNotStoredAsData := by
  refine ⟨fun i b s c hfault hlink hb harg => ?_, fun i b s c hfault hlink hb => ?_⟩
  · obtain ⟨t, hexec, hrx, -⟩ := exec_framed_delivers hfault hlink hb
    rw [Rx.deliver_argument s.par b harg] at hrx
    refine ⟨t, hexec, by rw [hrx]; exact Rx.argument_page .., by rw [hrx]; exact Rx.argument_col .., by rw [hrx],
      fun a => ?_⟩
    simp only [hrx, Rx.argument_pram_read, Rx.inRange_iff, pramAddr]
  · obtain ⟨t, hexec, hrx, -⟩ := exec_framed_delivers hfault hlink hb
    exact ⟨t, hexec, by rw [hrx, Rx.deliver_low_argNext]; exact takesValue_iff ..⟩

end Sys2Proof.Machine
end

section
/-! What a flush that passes its checks sends (42_flush R102 to R106), and bytes sent while the reset line is LOW
(20_memory R55). -/

namespace Sys2Proof.Machine

/-! ## A flush that passes its checks -/

/-- The bytes of a flush with the configuration `c`, on signed coordinates (42_flush R106). -/
def State.flushBytes (s : State) (c : Cfg) (x0 y0 x1 y1 : Int) : List (Level × Byte) :=
  (span (firstPage y0) (lastPage s.par y1)).flatMap (s.pageList (x0 + c.hoffset) x0 x1)

theorem firstPage_eq (y0 : Int) : firstPage y0 = max y0 0 / 8 := floorDiv_eq _ _ (by norm_num)

theorem lastPage_eq (p : Params) (y1 : Int) : lastPage p y1 = min y1 ((p.height : Int) - 1) / 8 :=
  floorDiv_eq _ _ (by norm_num)

theorem badColumns_eq_false {p : Params} {x0 x1 : Int} (h0 : 0 ≤ x0) (h0' : x0 ≤ (p.width : Int) - 1)
    (h1 : x0 ≤ x1 → x1 ≤ (p.width : Int) - 1) : badColumns p x0 x1 = false := by
  simp only [badColumns, Bool.or_eq_false_iff, Bool.and_eq_false_iff, decide_eq_false_iff_not]
  omega

/-- A flush with a zero counter, pages and legal columns sends the bytes of its pages (42_flush R102 to R106). -/
theorem exec_flush_sends {x0 y0 x1 y1 : BitVec 16} {s : State} {c : Cfg} (hfault : s.fault = none)
    (hcfg : s.cfg = some c) (hdfc : s.dfc = 0) (hpages : firstPage y0.toInt ≤ lastPage s.par y1.toInt)
    (hcols : badColumns s.par x0.toInt x1.toInt = false) :
    exec (.flush x0 y0 x1 y1) s =
      .next (s.withEvents c (frames s.par.spiMode c (s.flushBytes c x0.toInt y0.toInt x1.toInt y1.toInt))) := by
  obtain ⟨hd, -⟩ | ⟨-, hempty, -⟩ | ⟨-, -, hbad, -⟩ | ⟨-, -, -, hnone, -⟩ | ⟨d, -, -, -, hd, hresult⟩ :=
    s.flushBox_cases x0.toInt y0.toInt x1.toInt y1.toInt
  · exact absurd hdfc hd
  · exact absurd hempty (not_lt.2 hpages)
  · exact absurd (hbad.symm.trans hcols) (by decide)
  · exact absurd (hcfg.symm.trans hnone) (Option.some_ne_none _)
  · obtain rfl : c = d := Option.some.inj (hcfg.symm.trans hd)
    rw [s.emit_eq_withEvents c _ hcfg] at hresult
    exact (s.run_next_iff _ _).2 ⟨hfault, congrArg s.settle hresult⟩

/-! ## Bytes sent while the reset line is LOW -/

/-- Bytes sent on a held block cost their events and do not reach the receiver (20_memory R49, R55). -/
theorem State.withEvents_frames_held {s : State} {c : Cfg} (h : s.heldOn c) (bs : List (Level × Byte)) :
    (s.withEvents c (frames s.par.spiMode c bs)).rx = s.rx ∧
    (s.withEvents c (frames s.par.spiMode c bs)).trace.length = s.trace.length + 6 * bs.length := by
  obtain ⟨-, hpins, pin, hpin, hlow⟩ := h
  refine ⟨recvEvents_frames_reset _ _ _ _ _ _ hpins (by simp [Lines.of, hpin, hlow]), ?_⟩
  simp only [State.withEvents, List.length_append, frames_length]

/-- An instruction that ends in a send on a held block. -/
theorem exec_sends_held {i : Instr} {s : State} {c : Cfg} {bs : List (Level × Byte)} (hfault : s.fault = none)
    (hheld : s.heldOn c) (hexec : exec i s = s.run (s.send bs)) :
    ∃ t, exec i s = .next t ∧ t.rx = s.rx ∧ t.trace.length = s.trace.length + 6 * bs.length := by
  refine ⟨_, ?_, State.withEvents_frames_held hheld bs⟩
  rw [hexec, s.run_of_safe _ hfault, s.send_some c bs hheld.1, s.emit_eq_withEvents c _ hheld.1, State.settle_ok]

/-- Three address bytes and a byte for each column, for each page (42_flush R107). -/
theorem State.flushBytes_length (s : State) (c : Cfg) {x0 y0 x1 y1 : Int} {n w : Nat}
    (hn : (n : Int) = lastPage s.par y1 - firstPage y0 + 1) (hw : (w : Int) = max 0 (x1 - x0 + 1)) :
    (s.flushBytes c x0 y0 x1 y1).length = n * (3 + w) := by
  have hpage : ∀ q, (s.pageList (x0 + c.hoffset) x0 x1 q).length = 3 + w := by
    intro q
    simp only [State.pageList, addressBytes, List.length_append, List.length_cons, List.length_nil, List.length_map,
      span_length]
    omega
  have hspan : (span (firstPage y0) (lastPage s.par y1)).length = n := by rw [span_length]; omega
  simp only [State.flushBytes, List.length_flatMap, hpage, List.map_const', List.sum_replicate, hspan, smul_eq_mul]

/-- Settles O22: each of these instructions sends bytes, and the reset line is LOW for each of them. -/
theorem nothingIsDeliveredWhileInReset : Obligations.NothingIsDeliveredWhileInReset := by
  refine ⟨fun i s c hfault hheld hi => ?_, fun v s c hfault hheld => ?_,
    fun x0 y0 x1 y1 s c n w hfault hheld hdfc hn hpos hw hx0 hx0' hx1 => ?_⟩
  · obtain ⟨x, hx⟩ | ⟨b, rfl⟩ | ⟨b, rfl⟩ | ⟨on, rfl⟩ | ⟨v, rfl, hv⟩ := hi
    · exact exec_sends_held hfault hheld (exec_framed i x s hx)
    · exact exec_sends_held (bs := [(.low, b)]) hfault hheld rfl
    · exact exec_sends_held (bs := [(.high, b)]) hfault hheld rfl
    · exact exec_sends_held (bs := [(.low, inverseByte s.par.cmd on)]) hfault hheld rfl
    · exact exec_sends_held (bs := [(.low, resistorByte s.par.cmd (resistorField v))]) hfault hheld
        (congrArg s.run (if_neg (not_lt.2 hv)))
  · exact exec_sends_held (bs := [(.low, Config.cmdEv), (.high, contrastByte v)]) hfault hheld rfl
  · rw [← lastPage_eq, ← firstPage_eq] at hn
    refine ⟨_, exec_flush_sends hfault hheld.1 hdfc (by omega) (badColumns_eq_false hx0 hx0' hx1), ?_⟩
    obtain ⟨hrx, htrace⟩ := State.withEvents_frames_held hheld (s.flushBytes c x0.toInt y0.toInt x1.toInt y1.toInt)
    refine ⟨hrx, ?_⟩
    rw [htrace, s.flushBytes_length c hn hw, mul_assoc]

end Sys2Proof.Machine
end

section
/-! What a flush leaves in the display RAM (20_memory R56): address commands, then a row of data bytes, page by page. -/

namespace Sys2Proof

/-- The display RAM has a column for each column of the buffer (00_scope R8). -/
theorem Params.width_le_panelCols (p : Params) : p.width ≤ p.panelCols :=
  (Nat.le_add_right _ _).trans (Nat.le_add_right _ _)

/-- The display RAM has a page for each page of the buffer (00_scope R8). -/
theorem Params.pages_le_panelPages (p : Params) : p.pages ≤ p.panelPages := Nat.le_add_right _ _

end Sys2Proof

namespace Sys2Proof.Machine

theorem Rx.deliverAll_append (p : Params) (r : Rx) (u v : List (Level × Byte)) :
    r.deliverAll p (u ++ v) = (r.deliverAll p u).deliverAll p v := List.foldl_append

/-! ## The address of a page -/

theorem colHigh_natCast {x : Nat} (hx : x < 256) : (colHigh (x : Int)).toNat = x / 16 := by
  simp only [colHigh, BitVec.ofInt_natCast, BitVec.extractLsb'_toNat, BitVec.toNat_ofNat, Nat.shiftRight_eq_div_pow]
  omega

theorem colLow_natCast (x : Nat) : (colLow (x : Int)).toNat = x % 16 := by
  simp only [colLow, BitVec.ofInt_natCast, BitVec.toNat_ofNat]

theorem pageField_natCast {q : Nat} (hq : q < 16) : (pageField (q : Int)).toNat = q := by
  simp only [pageField, BitVec.ofInt_natCast, BitVec.toNat_ofNat]
  omega

/-- The address commands land the pointers on a column and a page wherever they were, end any wait for an argument and
keep the display RAM (20_memory R50, R51). -/
theorem Rx.deliverAll_addressBytes {p : Params} (h : p.cmd.legal = true) (r : Rx) {x q : Nat} (hx : x < 256)
    (hq : q < 16) :
    (r.deliverAll p (addressBytes p.cmd x q)).col = x ∧ (r.deliverAll p (addressBytes p.cmd x q)).page = q ∧
    (r.deliverAll p (addressBytes p.cmd x q)).argNext = false ∧
    (r.deliverAll p (addressBytes p.cmd x q)).pram = r.pram := by
  have hsteps : r.deliverAll p (addressBytes p.cmd x q) =
      ((r.deliver p .low (colMsbByte p.cmd (colHigh x))).deliver p .low (colLsbByte p.cmd (colLow x))).deliver p .low
        (pageByte p.cmd (pageField q)) := rfl
  rw [hsteps, Rx.deliver_low_col, Rx.deliver_low_page, Rx.deliver_low_argNext, Rx.deliver_low_pram]
  refine ⟨?_, ?_, takesValue_pageByte h _, ?_⟩
  · rw [Rx.command_page_col h, Rx.deliver_low_col, Rx.command_colLsb h, Rx.setColLo_col, Rx.deliver_low_col,
      Rx.command_colMsb h, Rx.col_div, Rx.setColHi_colHi, colHigh_natCast hx, colLow_natCast]
    omega
  · rw [Rx.command_page h, pageField_natCast hq]
  · rw [Rx.command_page_pram h, Rx.deliver_low_pram, Rx.command_colLsb h, Rx.setColLo_pram, Rx.deliver_low_pram,
      Rx.command_colMsb h, Rx.setColHi_pram]

/-! ## A row of data bytes -/

/-- The receiver `r'` is `r` after `n` data bytes from column `x` of page `q` on, the byte of each column given by `f`
(20_memory R52): the place for the next one is known while there is a column left. -/
structure Rx.RowWritten (p : Params) (r : Rx) (q x : Nat) (f : Nat → Byte) (n : Nat) (r' : Rx) : Prop where
  page : r'.page = q
  argNext : r'.argNext = false
  col : x + n < p.panelCols → r'.col = x + n
  pram : ∀ q' x', x' < p.panelCols →
    r'.pramByte p q' x' = if q' = q ∧ x ≤ x' ∧ x' < x + n then f x' else r.pramByte p q' x'

/-- One more data byte of a row, while there is a column for it. -/
theorem Rx.RowWritten.succ {p : Params} {r r' : Rx} {q x n : Nat} {f : Nat → Byte} (h : r.RowWritten p q x f n r')
    (hq : q < p.panelPages) (hn : x + n < p.panelCols) :
    r.RowWritten p q x f (n + 1) (r'.deliver p .high (f (x + n))) := by
  have hcol := h.col hn
  have hin : r'.inRange p = true := (r'.inRange_iff p).2 ⟨by rw [hcol]; exact hn, by rw [h.page]; exact hq⟩
  rw [Rx.deliver_data p _ h.argNext]
  refine ⟨(r'.data_page p _).trans h.page, rfl, fun hlast => ?_, fun q' x' hx' => ?_⟩
  · exact (Rx.data_col _ hin).trans (by rw [hcol, if_pos (by omega), Nat.add_assoc])
  · have hread : ({ r'.data p (f (x + n)) with argNext := false } : Rx).pramByte p q' x' =
        if q' = q ∧ x' = x + n then f (x + n) else r'.pramByte p q' x' := by
      simp only [Rx.pramByte, Rx.data_pram _ hin, Memory.read_write, hcol, h.page, pramAddr_inj p hx' hn]
    rw [hread, h.pram q' x' hx']
    by_cases hlast : q' = q ∧ x' = x + n
    · obtain ⟨rfl, rfl⟩ := hlast
      simp
    · rw [if_neg hlast]
      refine if_congr ?_ rfl rfl
      omega

theorem Rx.deliverAll_row {p : Params} {r : Rx} {q x : Nat} (f : Nat → Byte) (hpage : r.page = q) (hcol : r.col = x)
    (harg : r.argNext = false) (hq : q < p.panelPages) (n : Nat) (hn : x + n ≤ p.panelCols) :
    r.RowWritten p q x f n (r.deliverAll p ((List.range n).map fun k => (.high, f (x + k)))) := by
  induction n with
  | zero => exact ⟨hpage, harg, fun _ => hcol, fun q' x' _ => (if_neg (by omega)).symm⟩
  | succ n ih =>
    rw [List.range_succ, List.map_append, Rx.deliverAll_append]
    exact (ih (by omega)).succ hq (by omega)

/-! ## Pages -/

/-- The bytes of a page on natural numbers. -/
theorem State.pageList_natCast (s : State) (x q : Nat) (x1 : Int) :
    s.pageList x x x1 q = addressBytes s.par.cmd x q ++
      (List.range (x1 - x + 1).toNat).map fun k => (.high, s.fb.read (x + k + q * s.par.width)) := by
  simp only [State.pageList, span, List.map_map]
  refine congrArg _ (List.map_congr_left fun k _ => congrArg (fun a => (Level.high, s.fb.read a)) ?_)
  norm_cast

/-- A page makes the display RAM equal to the framebuffer inside its row of the box and keeps the rest. -/
theorem Rx.deliverAll_pageList {s : State} (h : s.par.cmd.legal = true) (r : Rx) {x q : Nat} {x1 : Int}
    (hq : q < s.par.pages) (hx : x < s.par.width) (hx1 : (x : Int) ≤ x1 → x1 ≤ (s.par.width : Int) - 1)
    (q' : Nat) {x' : Nat} (hx' : x' < s.par.panelCols) :
    (r.deliverAll s.par (s.pageList x x x1 q)).pramByte s.par q' x' =
      if q' = q ∧ (x : Int) ≤ x' ∧ (x' : Int) ≤ x1 then s.fb.read (x' + q' * s.par.width)
      else r.pramByte s.par q' x' := by
  have hwidth := s.par.width_le
  have hpages := s.par.pages_le
  have hcols := s.par.width_le_panelCols
  obtain ⟨hcol, hpage, harg, hpram⟩ :=
    r.deliverAll_addressBytes h (x := x) (q := q) (by omega) (by omega)
  have hrow := Rx.deliverAll_row (fun k => s.fb.read (k + q * s.par.width)) hpage hcol harg
    (hq.trans_le s.par.pages_le_panelPages) (x1 - x + 1).toNat (by omega)
  rw [State.pageList_natCast, Rx.deliverAll_append, hrow.pram q' x' hx']
  have hbox : (q' = q ∧ x ≤ x' ∧ x' < x + (x1 - x + 1).toNat) ↔ (q' = q ∧ (x : Int) ≤ x' ∧ (x' : Int) ≤ x1) := by omega
  simp only [hbox, Rx.pramByte, hpram]
  exact if_ctx_congr Iff.rfl (fun hin => by rw [hin.1]) fun _ => rfl

theorem Rx.deliverAll_pages {s : State} (h : s.par.cmd.legal = true) {x : Nat} {x1 : Int} (hx : x < s.par.width)
    (hx1 : (x : Int) ≤ x1 → x1 ≤ (s.par.width : Int) - 1) (ps : List Int) (hps : ∀ q ∈ ps, 0 ≤ q ∧ q < s.par.pages)
    (r : Rx) (q' : Nat) {x' : Nat} (hx' : x' < s.par.panelCols) :
    (r.deliverAll s.par (ps.flatMap (s.pageList x x x1))).pramByte s.par q' x' =
      if (q' : Int) ∈ ps ∧ (x : Int) ≤ x' ∧ (x' : Int) ≤ x1 then s.fb.read (x' + q' * s.par.width)
      else r.pramByte s.par q' x' := by
  induction ps generalizing r with
  | nil => simp [Rx.deliverAll]
  | cons p rest ih =>
    rw [List.forall_mem_cons] at hps
    obtain ⟨⟨hp0, hp⟩, hrest⟩ := hps
    lift p to ℕ using hp0
    rw [List.flatMap_cons, Rx.deliverAll_append, ih hrest,
      Rx.deliverAll_pageList h r (by omega) hx hx1 q' hx']
    have hpages : (q' : Int) ∈ (p : Int) :: rest ∧ (x : Int) ≤ x' ∧ (x' : Int) ≤ x1 ↔
        ((q' : Int) ∈ rest ∧ (x : Int) ≤ x' ∧ (x' : Int) ≤ x1) ∨ (q' = p ∧ (x : Int) ≤ x' ∧ (x' : Int) ≤ x1) := by
      rw [List.mem_cons, Nat.cast_inj, or_comm, or_and_right]
    simp only [hpages, ite_or]

/-- Settles O36: the bytes of a flush are its pages one after the other. -/
theorem flushDeliversTheBufferToThePanel : Obligations.FlushDeliversTheBufferToThePanel := by
  intro x0 y0 x1 y1 s c hfault hlink hlegal hoffset hdfc hpages hx0 hx0' hx1
  rw [← lastPage_eq, ← firstPage_eq] at hpages
  refine ⟨_, exec_flush_sends hfault hlink.1 hdfc hpages (badColumns_eq_false hx0 hx0' hx1), fun p x _ hx => ?_⟩
  obtain ⟨column, hcolumn⟩ := Int.eq_ofNat_of_zero_le hx0
  rw [hcolumn] at hx0' hx1 ⊢
  have hrx := State.withEvents_frames_rx hlink (s.flushBytes c column y0.toInt x1.toInt y1.toInt)
  have hread := Rx.deliverAll_pages hlegal (by omega) hx1 (span (firstPage y0.toInt) (lastPage s.par y1.toInt))
    (fun q hq => pages_in_range _ _ _ _ ((mem_span _ _ _).1 hq)) s.rx p hx
  rw [hrx, State.flushBytes, hoffset, add_zero]
  refine hread.trans ?_
  simp only [mem_span, firstPage_eq, lastPage_eq, and_assoc]

end Sys2Proof.Machine
end

section
/-! The arguments of a host call are read back as they are written (30_encoding R61, R80), and a call is read as a host
operation (30_encoding R60). -/

namespace Sys2Proof

/-! ## Arguments -/

@[simp] theorem readTransport_written (t : Bool) : readTransport (if t then .transport else .absent) = some t := by
  cases t <;> rfl

@[simp] theorem readNat_num (n : Nat) : readNat (.num n) = some n := by simp [readNat]

@[simp] theorem readRst_rstArg (rst : Option Nat) : readRst (rstArg rst) = some rst := by
  cases rst <;> simp [rstArg, readRst]

@[simp] theorem readBool_boolArg (b : Bool) : readBool (boolArg b) = some b := by cases b <;> rfl

/-- The two's complement value of every 16-bit pattern fits `sext_16` (30_encoding R61). -/
@[simp] theorem readCoord_toInt (x : BitVec 16) : readCoord (.num x.toInt) = some x := by
  have hlow := x.le_toInt
  have hhigh := x.toInt_lt
  rw [readCoord, if_pos (by omega), BitVec.ofInt_toInt]

/-- A natural number that fits `sext_16` is a coordinate. -/
theorem readCoord_natCast {n : Nat} (h : n ≤ 32767) : readCoord (.num n) = some (BitVec.ofNat 16 n) := by
  rw [readCoord, if_pos (by omega), BitVec.ofInt_natCast]

@[simp] theorem readByte_toNat (v : Byte) : readByte (.num v.toNat) = some v := by
  have hv := v.isLt
  rw [readByte, if_pos (by omega), BitVec.ofInt_natCast, BitVec.ofNat_toNat, BitVec.setWidth_eq]

/-! ## Calls -/

theorem decodeCall_of_readCall {selector : Nat} {args : List Arg} {i : Instr} (h : readCall selector args = some i) :
    decodeCall selector args = .ok i := by
  rw [decodeCall, h]

theorem readCall_of_decodeCall {selector : Nat} {args : List Arg} {i : Instr} (h : decodeCall selector args = .ok i) :
    readCall selector args = some i := by
  unfold decodeCall at h
  split at h
  · next hread => cases h; exact hread
  · cases h

/-- A host operation is written as a call that is read as that operation (30_encoding R59 to R61). -/
theorem encode_of_isHostOp (c : CommandBytes) {i : Instr} (h : i.isHostOp = true) :
    ∃ selector args, encode c i = .call selector args ∧ readCall selector args = some i := by
  cases i with
  | beginOp | clear | setPixel | setEnabled | setContrast | setResistor | setInverted | flush | setOrientation =>
    exact ⟨_, _, rfl, by simp [readCall]⟩
  | sendCommand | sendData | cmdColLsb | cmdColMsb | cmdResistor | cmdPower | cmdScroll | cmdEv | cmdSeg | cmdBias
  | cmdAllpix | cmdInverse | cmdDisplay | cmdPage | cmdCom | cmdSysreset | cmdApc | evValue | apcValue
  | displayData => cases h

/-- A call that is read at all has a selector of 30_encoding R60 and is read as the operation of that selector. -/
theorem readCall_isHostOp {selector : Nat} {args : List Arg} {i : Instr} (h : readCall selector args = some i) :
    i.isHostOp = true ∧ selector ≤ 8 := by
  unfold readCall at h
  split at h <;> simp only [Option.bind_eq_bind, Option.bind_eq_some_iff, Option.pure_def, Option.some.injEq,
    reduceCtorEq] at h
  case h_1 => obtain ⟨_, _, _, _, _, _, _, _, _, _, _, _, _, _, rfl⟩ := h; exact ⟨rfl, by decide⟩
  case h_2 => subst h; exact ⟨rfl, by decide⟩
  case h_3 => obtain ⟨_, _, _, _, _, _, rfl⟩ := h; exact ⟨rfl, by decide⟩
  case h_4 | h_5 | h_6 | h_7 | h_9 => obtain ⟨_, _, rfl⟩ := h; exact ⟨rfl, by decide⟩
  case h_8 => obtain ⟨_, _, _, _, _, _, _, _, rfl⟩ := h; exact ⟨rfl, by decide⟩

/-- Settles O5: a call is read by its selector, and each selector has one operation. -/
theorem hostCallsAreHostOperations : Obligations.HostCallsAreHostOperations := by
  intro c prev selector args i h
  exact readCall_isHostOp (readCall_of_decodeCall h)

end Sys2Proof

namespace Sys2Proof.Machine

/-- Settles O8: the geometry is small enough for its last column and row to be read as coordinates. -/
theorem flushDefaultsToFullExtent : Obligations.FlushDefaultsToFullExtent := by
  intro s rest hfault hinput
  refine stepRunsTheDecodedInstruction s _ rest _ hfault hinput (decodeCall_of_readCall ?_)
  have hwidth := s.par.width_pos
  have hwidth' := s.par.width_le
  have hheight := s.par.height_eq
  have hpages := s.par.pages_pos
  have hpages' := s.par.pages_le
  have hx1 : ((s.par.width : Int) - 1) = (s.par.width - 1 : Nat) := by omega
  have hy1 : ((s.par.height : Int) - 1) = (s.par.height - 1 : Nat) := by omega
  have h0 : readCoord (.num 0) = some 0 := readCoord_natCast (n := 0) (by decide)
  simp [readCall, h0, hx1, hy1, readCoord_natCast (n := s.par.width - 1) (by omega),
    readCoord_natCast (n := s.par.height - 1) (by omega)]

end Sys2Proof.Machine
end

section
/-! A byte of the output stream and the instruction it is read as determine each other (30_encoding R69, R70, R82). -/

namespace Sys2Proof

/-- Settles O3: rows that are apart differ in a bit that both fix. -/
theorem commandRowsDoNotOverlap : Obligations.CommandRowsDoNotOverlap := by
  refine ⟨Config.commands_legal, fun c h => (c.pairwise_apart h).imp fun hapart b => ?_⟩
  rw [Bool.and_eq_false_imp]
  exact Pattern.not_fits_of_apart hapart

/-! ## From the instruction to its byte and back -/

/-- An instruction with a framed byte is written as that byte (30_encoding R67 to R77). -/
theorem encode_of_framedByte {c : CommandBytes} {i : Instr} {x : Level × Byte} (h : i.framedByte c = some x) :
    encode c i = .byte x.1 x.2 := by
  cases i <;> cases h <;> rfl

/-- The two commands that take a value byte are told apart (30_encoding R69). -/
theorem CommandBytes.apc_ne_ev {c : CommandBytes} (h : c.legal = true) : c.apc ≠ Config.cmdEv := by
  intro heq
  have hapc := decodeCommand_framedByte h (i := .cmdApc) rfl
  rw [heq, decodeCommand_framedByte h (i := .cmdEv) rfl] at hapc
  cases hapc

/-- A value byte leaves its two high bits zero (30_encoding R72). -/
theorem evValueByte_high (v : BitVec 6) : (evValueByte v).extractLsb' 6 2 = 0 := by
  revert v; decide

theorem evValueByte_low (v : BitVec 6) : (evValueByte v).setWidth 6 = v := by
  rw [evValueByte, BitVec.setWidth_setWidth_of_le _ (by decide), BitVec.setWidth_eq]

/-- A value or display data byte, where it may stand, is read as the instruction that frames it (30_encoding R69). -/
theorem decodeData_framedByte {c : CommandBytes} (h : c.legal = true) {prev : Option (Level × Byte)} {i : Instr}
    {b : Byte} (hb : i.framedByte c = some (.high, b)) (hstands : i.standsAfter c prev = true) :
    decodeData c prev b = .ok i := by
  cases i with
  | evValue v =>
    cases hb
    rw [decodeData, if_pos (eq_of_beq hstands), if_pos (evValueByte_high v), evValueByte_low]
  | apcValue a =>
    cases hb
    obtain rfl := eq_of_beq hstands
    rw [decodeData, if_neg (by simpa using CommandBytes.apc_ne_ev h), if_pos rfl]
  | displayData d =>
    cases hb
    simp only [Instr.standsAfter, Bool.and_eq_true, bne_iff_ne] at hstands
    rw [decodeData, if_neg hstands.1, if_neg hstands.2]
  | beginOp | clear | setPixel | setEnabled | setContrast | setResistor | setInverted | flush | setOrientation
  | sendCommand | sendData | cmdColLsb | cmdColMsb | cmdResistor | cmdPower | cmdScroll | cmdEv | cmdSeg | cmdBias
  | cmdAllpix | cmdInverse | cmdDisplay | cmdPage | cmdCom | cmdSysreset | cmdApc => cases hb

/-- A framed byte is read as the instruction that frames it, where that instruction may stand (30_encoding R82). -/
theorem decodeByte_framedByte {c : CommandBytes} (h : c.legal = true) {prev : Option (Level × Byte)} {i : Instr}
    {x : Level × Byte} (hx : i.framedByte c = some x) (hstands : i.standsAfter c prev = true) :
    decodeByte c prev x.1 x.2 = .ok i := by
  obtain ⟨cd, b⟩ := x
  cases cd with
  | low => exact decodeCommand_framedByte h hx
  | high => exact decodeData_framedByte h hx hstands

/-- An instruction is a host operation, a primitive, or a byte in its frame (30_encoding R60, R67). -/
theorem Instr.kind (c : CommandBytes) (i : Instr) :
    i.isHostOp = true ∨ (∃ b, i = .sendCommand b) ∨ (∃ b, i = .sendData b) ∨ ∃ x, i.framedByte c = some x := by
  cases i with
  | beginOp | clear | setPixel | setEnabled | setContrast | setResistor | setInverted | flush | setOrientation =>
    exact .inl rfl
  | sendCommand b => exact .inr (.inl ⟨b, rfl⟩)
  | sendData b => exact .inr (.inr (.inl ⟨b, rfl⟩))
  | cmdColLsb | cmdColMsb | cmdResistor | cmdPower | cmdScroll | cmdEv | cmdSeg | cmdBias | cmdAllpix | cmdInverse
  | cmdDisplay | cmdPage | cmdCom | cmdSysreset | cmdApc | evValue | apcValue | displayData =>
    exact .inr (.inr (.inr ⟨_, rfl⟩))

/-- Settles O1: a call is read by its arguments, a byte by the row it fits or, if it is data, by the byte before it. -/
theorem decodeInvertsEncode : Obligations.DecodeInvertsEncode := by
  intro c h i prev hstands
  obtain hhost | ⟨b, rfl⟩ | ⟨b, rfl⟩ | ⟨x, hx⟩ := i.kind c
  · obtain ⟨selector, args, hencode, hread⟩ := encode_of_isHostOp c hhost
    rw [hencode]
    exact decodeCall_of_readCall hread
  · rfl
  · rfl
  · rw [encode_of_framedByte hx]
    exact decodeByte_framedByte h hx hstands

/-! ## From the byte to its instruction and back -/

/-- A byte that fits a row is the row's value with the byte's own bits in the field. -/
theorem Pattern.value_or_of_fits {p : Pattern} {b f : Byte} (h : p.fits b = true) (hf : b &&& ~~~p.mask = f) :
    p.value ||| f = b := by
  rw [← hf, ← eq_of_beq h, ← BitVec.and_or_distrib_left, BitVec.or_not_self, BitVec.and_allOnes]

/-- The bits outside a mask that fixes all but the low `w` bits are the low `w` bits. -/
theorem and_not_eq_field {w : Nat} (b m : Byte) (hm : ~~~m = (BitVec.allOnes w).setWidth 8) :
    b &&& ~~~m = (b.setWidth w).setWidth 8 := by
  rw [hm]
  ext i hi
  simp only [BitVec.getElem_and, BitVec.getElem_setWidth, BitVec.getLsbD_allOnes, BitVec.getLsbD_setWidth,
    BitVec.getLsbD_eq_getElem hi, Bool.and_comm]

/-- The bit outside a mask that fixes all but bit 0. -/
theorem and_not_eq_bit1 (b : Byte) : b &&& ~~~(0xFE : Byte) = bit1 (b.getLsbD 0) := by revert b; decide

/-- The bit outside a mask that fixes all but bit 3. -/
theorem and_not_eq_bit1_shifted (b : Byte) : b &&& ~~~(0xF7 : Byte) = bit1 (b.getLsbD 3) <<< 3 := by revert b; decide

/-- The instruction a row reads from a byte is framed as that byte, if it is framed as the row's value with the byte's
own bits in the field. -/
theorem framedByte_of_fits {c : CommandBytes} {p : Pattern} {i : Instr} {b f : Byte} (hfits : p.fits b = true)
    (hi : i.framedByte c = some (.low, p.value ||| f)) (hf : b &&& ~~~p.mask = f) :
    i.framedByte c = some (.low, b) := by
  rw [hi, Pattern.value_or_of_fits hfits hf]

/-- A row without a field reads only its value. -/
theorem framedByte_of_fits_fixed {c : CommandBytes} {p : Pattern} {i : Instr} {b : Byte} (hfits : p.fits b = true)
    (hi : i.framedByte c = some (.low, p.value)) (hmask : p.mask = 0xFF) : i.framedByte c = some (.low, b) :=
  framedByte_of_fits hfits (f := 0) (by simp [hi]) (by simp [hmask])

/-- Whatever row of the table reads a byte, the instruction it reads is framed as that byte (30_encoding R70). -/
theorem framedByte_of_row {c : CommandBytes} {b : Byte} {r : Pattern × (Byte → Instr)} (hr : r ∈ c.rows)
    (hfits : r.1.fits b = true) : (r.2 b).framedByte c = some (.low, b) := by
  simp only [CommandBytes.rows, List.mem_cons, List.not_mem_nil, or_false] at hr
  rcases hr with rfl | rfl | rfl | rfl | rfl | rfl | rfl | rfl | rfl | rfl | rfl | rfl | rfl | rfl | rfl
  · exact framedByte_of_fits hfits rfl (and_not_eq_field b 0xF0 (by decide))
  · exact framedByte_of_fits hfits rfl (and_not_eq_field b 0xF0 (by decide))
  · exact framedByte_of_fits hfits rfl (and_not_eq_field b 0xF8 (by decide))
  · exact framedByte_of_fits hfits rfl (and_not_eq_field b 0xF8 (by decide))
  · exact framedByte_of_fits hfits rfl (and_not_eq_field b 0xC0 (by decide))
  · exact framedByte_of_fits_fixed hfits rfl rfl
  · exact framedByte_of_fits hfits rfl (and_not_eq_bit1 b)
  · exact framedByte_of_fits hfits rfl (and_not_eq_bit1 b)
  · exact framedByte_of_fits_fixed hfits rfl rfl
  · exact framedByte_of_fits hfits rfl (and_not_eq_bit1 b)
  · exact framedByte_of_fits hfits rfl (and_not_eq_bit1 b)
  · exact framedByte_of_fits hfits rfl (and_not_eq_field b 0xF0 (by decide))
  · exact framedByte_of_fits hfits rfl (and_not_eq_bit1_shifted b)
  · exact framedByte_of_fits_fixed hfits rfl rfl
  · exact framedByte_of_fits_fixed hfits rfl rfl

/-- A command byte may stand anywhere (30_encoding R82). -/
theorem standsAfter_of_framedByte_low {c : CommandBytes} (prev : Option (Level × Byte)) {i : Instr} {b : Byte}
    (h : i.framedByte c = some (.low, b)) : i.standsAfter c prev = true := by
  cases i with
  | evValue | apcValue | displayData => cases h
  | beginOp | clear | setPixel | setEnabled | setContrast | setResistor | setInverted | flush | setOrientation
  | sendCommand | sendData | cmdColLsb | cmdColMsb | cmdResistor | cmdPower | cmdScroll | cmdEv | cmdSeg | cmdBias
  | cmdAllpix | cmdInverse | cmdDisplay | cmdPage | cmdCom | cmdSysreset | cmdApc => rfl

/-- A byte with its two high bits zero is the value byte of its low six bits (30_encoding R72). -/
theorem evValueByte_setWidth {b : Byte} (h : b.extractLsb' 6 2 = 0) : evValueByte (b.setWidth 6) = b := by
  revert b; decide

/-- What a data byte is read as is framed as that byte and may stand there (30_encoding R69). -/
theorem framedByte_of_decodeData {c : CommandBytes} {prev : Option (Level × Byte)} {b : Byte} {i : Instr}
    (h : decodeData c prev b = .ok i) : i.framedByte c = some (.high, b) ∧ i.standsAfter c prev = true := by
  unfold decodeData at h
  split at h
  · next hev =>
    split at h
    · next hhigh =>
      cases h
      exact ⟨congrArg (fun v => some (Level.high, v)) (evValueByte_setWidth hhigh), beq_iff_eq.2 hev⟩
    · cases h
  · next hev =>
    split at h
    · next hapc => cases h; exact ⟨rfl, beq_iff_eq.2 hapc⟩
    · next hapc => cases h; exact ⟨rfl, by simp [Instr.standsAfter, hev, hapc]⟩

/-- What a byte of the stream is read as is framed as that byte and may stand there (30_encoding R82). -/
theorem framedByte_of_decodeByte {c : CommandBytes} {prev : Option (Level × Byte)} {cd : Level} {b : Byte} {i : Instr}
    (h : decodeByte c prev cd b = .ok i) : i.framedByte c = some (cd, b) ∧ i.standsAfter c prev = true := by
  cases cd with
  | low =>
    obtain ⟨r, hr, hfits, rfl⟩ := decodeCommand_row h
    have hframed := framedByte_of_row hr hfits
    exact ⟨hframed, standsAfter_of_framedByte_low prev hframed⟩
  | high => exact framedByte_of_decodeData h

/-- Settles O2: reading a framed byte gives back the instruction, so the byte cannot have been framed by another. -/
theorem decodedByteEncodesBack : Obligations.DecodedByteEncodesBack := by
  intro c prev
  refine ⟨fun cd b i h => ?_, fun h i j x hi hj histands hjstands => ?_⟩
  · obtain ⟨hframed, hstands⟩ := framedByte_of_decodeByte h
    exact ⟨hframed, encode_of_framedByte hframed, hstands⟩
  · have hread := decodeByte_framedByte h hi histands
    rw [decodeByte_framedByte h hj hjstands] at hread
    exact (Except.ok.inj hread).symm

/-! ## Words of the spec -/

/-- Settles O4: each entry is read by evaluation. -/
theorem specWordsDecode : Obligations.SpecWordsDecode := by
  unfold Obligations.SpecWordsDecode
  decide

/-- Settles O59: each row's default with each field the block sends. -/
theorem defaultCommandBytes : Obligations.DefaultCommandBytes := by
  refine ⟨rfl, ?_⟩
  decide

end Sys2Proof
end

section
/-! What the instructions put on the bus, as bytes of the table (30_encoding R65, R70, R79). -/

namespace Sys2Proof.Machine

/-- Settles O15: a byte row runs by sending its byte, and a send emits the byte's frame. -/
theorem framedBytesAreSentInTheirFrame : Obligations.FramedBytesAreSentInTheirFrame := by
  intro i cd b s c hframed hfault hcfg
  rw [exec_framed i _ s hframed, s.run_of_safe _ hfault, s.send_some c _ hcfg, State.settle_ok,
    s.emit_eq_withEvents c _ hcfg]
  rfl

/-! ## The byte stream of init and of disabling -/

theorem bytesFrom_cooldownIf (cd : Nat) (l : Level) (due : Bool) : bytesFrom cd l (cooldownIf due) = [] := by
  cases due <;> rfl

theorem bytesFrom_resetPulse (cd : Nat) (l : Level) (c : Cfg) : bytesFrom cd l (resetPulse c) = [] := by
  unfold resetPulse
  split <;> rfl

/-- The items of a command list are its byte stream; the cooldowns between them carry no byte (43_controller R116). -/
theorem bytesFrom_itemEvents (p : Params) {c : Cfg} (h : c.cs ≠ c.cd) (items : List (List (Level × Byte))) (k : Nat)
    (l : Level) : bytesFrom c.cd l (itemEvents p c k items) = items.flatten := by
  induction items generalizing k l with
  | nil => rfl
  | cons bs rest ih =>
    simp only [itemEvents, bytesFrom_append, bytesFrom_cooldownIf, bytesFrom_frames _ _ _ _ h, ih, List.append_nil,
      List.flatten_cons]

/-- Init puts the bytes of its 14 items on the bus and no other (43_controller R116, R118). -/
theorem bytesFrom_initEvents (p : Params) {c : Cfg} (h : c.cs ≠ c.cd) (l : Level) :
    bytesFrom c.cd l (initEvents p c) = (initItems p c).flatten := by
  have hlines : ∀ l, bytesFrom c.cd l (controlLines c) = [] := fun _ => rfl
  simp only [initEvents, commandList, bytesFrom_append, hlines, bytesFrom_resetPulse, bytesFrom_cooldownIf,
    bytesFrom_itemEvents p h, List.nil_append]

/-- Disabling puts power-control-off and display-off on the bus (43_controller R120). -/
theorem bytesFrom_disableEvents (p : Params) {c : Cfg} (h : c.cs ≠ c.cd) (l : Level) :
    bytesFrom c.cd l (disableEvents p c) = [(.low, powerByte p.cmd 0), (.low, displayByte p.cmd false)] := by
  have hdelay : ∀ l n, bytesFrom c.cd l [.delay n] = [] := fun _ _ => rfl
  have hlines : ∀ l a b n, bytesFrom c.cd l [.pinLevel c.cs a, .pinLevel c.cd b, .delay n] = [] := fun _ _ _ _ => rfl
  unfold disableEvents
  split <;> simp only [bytesFrom_append, bytesFrom_frames _ _ _ _ h, hdelay, hlines] <;> rfl

/-! ## Bytes of the table -/

/-- Every byte is the framed byte of an instruction the block can send: of the command bytes, those in the column "bytes
the block sends" of 30_encoding R70. -/
def TableBytes (cmd : CommandBytes) (bs : List (Level × Byte)) : Prop :=
  ∀ x ∈ bs, ∃ j : Instr, j.framedByte cmd = some x ∧ j.wf = true

theorem tableBytes_nil (cmd : CommandBytes) : TableBytes cmd [] := fun _ hx => nomatch hx

theorem TableBytes.append {cmd : CommandBytes} {u v : List (Level × Byte)} (hu : TableBytes cmd u)
    (hv : TableBytes cmd v) : TableBytes cmd (u ++ v) :=
  List.forall_mem_append.2 ⟨hu, hv⟩

/-- The bytes that well-formed instructions are framed as, in order. -/
theorem tableBytes_of_instrs {cmd : CommandBytes} {bs : List (Level × Byte)} (is : List Instr)
    (hbs : bs.map some = is.map (·.framedByte cmd)) (hwf : is.all Instr.wf = true) : TableBytes cmd bs := by
  intro x hx
  have hmem : some x ∈ is.map (·.framedByte cmd) := hbs ▸ List.mem_map_of_mem hx
  obtain ⟨j, hj, hframed⟩ := List.mem_map.1 hmem
  exact ⟨j, hframed, List.all_eq_true.1 hwf j hj⟩

/-- The contrast value is masked to the six bits of its value byte (30_encoding R72). -/
theorem contrastByte_eq (v : Byte) : contrastByte v = evValueByte (v.setWidth 6) := by revert v; decide

/-- The items of init are 14 commands, two of them with their value byte (43_controller R116). -/
theorem tableBytes_initItems (p : Params) (c : Cfg) : TableBytes p.cmd (initItems p c).flatten :=
  tableBytes_of_instrs
    [.cmdSysreset, .cmdDisplay false, .cmdScroll 0, .cmdSeg c.xflip, .cmdCom c.yflip, .cmdAllpix, .cmdInverse false,
      .cmdBias p.bias, .cmdPower 7, .cmdResistor p.initResistor, .cmdEv, .evValue p.initContrast, .cmdApc,
      .apcValue p.apcValue, .cmdAllpix, .cmdDisplay true] rfl rfl

/-- A page's address commands and its data bytes (42_flush R106). -/
theorem State.tableBytes_pageList (s : State) (c x0 x1 p : Int) : TableBytes s.par.cmd (s.pageList c x0 x1 p) := by
  refine .append
    (tableBytes_of_instrs [.cmdColMsb (colHigh c), .cmdColLsb (colLow c), .cmdPage (pageField p)] rfl rfl) ?_
  intro x hx
  obtain ⟨column, -, rfl⟩ := List.mem_map.1 hx
  exact ⟨.displayData _, rfl, rfl⟩

/-! ## What an operation sends -/

/-- The trace grew by events whose byte stream, read on the pins configured afterwards, is of the table. -/
def State.SendsTableBytes (s t : State) : Prop :=
  ∃ evs bs, t.trace = s.trace ++ evs ∧ TableBytes s.par.cmd bs ∧
    ∀ c, t.cfg = some c → c.cs ≠ c.cd → ∀ l, bytesFrom c.cd l evs = bs

theorem State.sendsTableBytes_of_quiet {s t : State} (htrace : t.trace = s.trace) : s.SendsTableBytes t :=
  ⟨[], [], by simp [htrace], tableBytes_nil _, fun _ _ _ _ => rfl⟩

theorem State.sendsTableBytes_of_events {s t : State} {c : Cfg} {evs : List Event} {bs : List (Level × Byte)}
    (hcfg : t.cfg = some c) (htrace : t.trace = s.trace ++ evs) (hbs : TableBytes s.par.cmd bs)
    (hbytes : c.cs ≠ c.cd → ∀ l, bytesFrom c.cd l evs = bs) : s.SendsTableBytes t := by
  refine ⟨evs, bs, htrace, hbs, fun d hd => ?_⟩
  obtain rfl := Option.some.inj (hcfg.symm.trans hd)
  exact hbytes

theorem State.emit_frames_sendsTableBytes {s : State} {c : Cfg} {bs : List (Level × Byte)} (hcfg : s.cfg = some c)
    (hbs : TableBytes s.par.cmd bs) : s.SendsTableBytes (s.emit (frames s.par.spiMode c bs)) :=
  State.sendsTableBytes_of_events hcfg rfl hbs fun hpins l => bytesFrom_frames _ c bs l hpins

theorem State.send_sendsTableBytes {s : State} {bs : List (Level × Byte)} (hbs : TableBytes s.par.cmd bs) :
    s.SendsTableBytes (s.settle (s.send bs)) := by
  cases hcfg : s.cfg with
  | none => rw [s.send_none bs hcfg]; exact State.sendsTableBytes_of_quiet rfl
  | some c => rw [s.send_some c bs hcfg]; exact State.emit_frames_sendsTableBytes hcfg hbs

theorem State.init_sendsTableBytes {s : State} {c : Cfg} (hcfg : s.cfg = some c) : s.SendsTableBytes (s.init c) := by
  rw [State.init_eq hcfg]
  exact State.sendsTableBytes_of_events hcfg rfl (tableBytes_initItems s.par c) (bytesFrom_initEvents s.par)

theorem State.disable_sendsTableBytes {s : State} {c : Cfg} (hcfg : s.cfg = some c) :
    s.SendsTableBytes (s.disable c) := by
  rw [State.disable_eq hcfg]
  exact State.sendsTableBytes_of_events hcfg rfl (tableBytes_of_instrs [.cmdPower 0, .cmdDisplay false] rfl rfl)
    (bytesFrom_disableEvents s.par)

theorem State.beginWith_sendsTableBytes (s : State) (transport : Bool) (c : Cfg) :
    s.SendsTableBytes (s.settle (s.beginWith transport c)) := by
  unfold State.beginWith
  split
  · split
    · exact State.sendsTableBytes_of_quiet rfl
    · exact State.init_sendsTableBytes (s := { s with cfg := some c }) rfl
  · split <;> exact State.sendsTableBytes_of_quiet rfl

theorem State.setPixelAt_sendsTableBytes (s : State) (x y : Int) (color : Bool) :
    s.SendsTableBytes (s.settle (s.setPixelAt x y color)) := by
  obtain ⟨-, hresult⟩ | ⟨i, k, -, -, -, hresult⟩ := s.setPixelAt_cases x y color
  · rw [hresult]; exact State.sendsTableBytes_of_quiet rfl
  · rw [hresult]
    refine State.sendsTableBytes_of_quiet ?_
    cases color <;> cases s.enabled <;> rfl

theorem State.flushBox_sendsTableBytes (s : State) (x0 y0 x1 y1 : Int) :
    s.SendsTableBytes (s.settle (s.flushBox x0 y0 x1 y1)) := by
  obtain ⟨-, hresult⟩ | ⟨-, -, hresult⟩ | ⟨-, -, -, hresult⟩ | ⟨-, -, -, -, hresult⟩ | ⟨c, -, -, -, hcfg, hresult⟩ :=
    s.flushBox_cases x0 y0 x1 y1
  · rw [hresult]; exact State.sendsTableBytes_of_quiet rfl
  · rw [hresult]; exact State.sendsTableBytes_of_quiet rfl
  · rw [hresult]; exact State.sendsTableBytes_of_quiet rfl
  · rw [hresult]; exact State.sendsTableBytes_of_quiet rfl
  · rw [hresult]
    exact State.emit_frames_sendsTableBytes hcfg
      (List.forall_mem_flatMap.2 fun p _ => s.tableBytes_pageList (x0 + c.hoffset) x0 x1 p)

/-- A host operation sends bytes of the table only (30_encoding R70, R79). -/
theorem exec_hostOp_sendsTableBytes {i : Instr} {s t : State} (hhost : i.isHostOp = true) (h : exec i s = .next t) :
    s.SendsTableBytes t := by
  cases i with
  | beginOp => obtain ⟨-, rfl⟩ := (s.run_next_iff t _).1 h; exact State.beginWith_sendsTableBytes ..
  | clear => obtain ⟨-, rfl⟩ := (s.run_next_iff t _).1 h; exact State.sendsTableBytes_of_quiet rfl
  | setPixel => obtain ⟨-, rfl⟩ := (s.run_next_iff t _).1 h; exact State.setPixelAt_sendsTableBytes ..
  | setEnabled on =>
    obtain ⟨-, rfl⟩ := (s.run_next_iff t _).1 h
    split
    · exact State.sendsTableBytes_of_quiet rfl
    · next hcfg =>
      cases on with
      | true => exact State.init_sendsTableBytes hcfg
      | false => exact State.disable_sendsTableBytes hcfg
  | setContrast v =>
    obtain ⟨-, rfl⟩ := (s.run_next_iff t _).1 h
    rw [contrastByte_eq]
    exact State.send_sendsTableBytes (tableBytes_of_instrs [.cmdEv, .evValue (v.setWidth 6)] rfl rfl)
  | setResistor v =>
    obtain ⟨-, rfl⟩ := (s.run_next_iff t _).1 h
    split
    · exact State.sendsTableBytes_of_quiet rfl
    · exact State.send_sendsTableBytes (tableBytes_of_instrs [.cmdResistor (resistorField v)] rfl rfl)
  | setInverted on =>
    obtain ⟨-, rfl⟩ := (s.run_next_iff t _).1 h
    exact State.send_sendsTableBytes (tableBytes_of_instrs [.cmdInverse on] rfl rfl)
  | flush => obtain ⟨-, rfl⟩ := (s.run_next_iff t _).1 h; exact State.flushBox_sendsTableBytes ..
  | setOrientation =>
    obtain ⟨-, rfl⟩ := (s.run_next_iff t _).1 h
    split <;> exact State.sendsTableBytes_of_quiet rfl
  | sendCommand | sendData | cmdColLsb | cmdColMsb | cmdResistor | cmdPower | cmdScroll | cmdEv | cmdSeg | cmdBias
  | cmdAllpix | cmdInverse | cmdDisplay | cmdPage | cmdCom | cmdSysreset | cmdApc | evValue | apcValue
  | displayData => cases hhost

/-- Settles O53: a command byte on the bus is the framed byte of a well-formed instruction, and is read as it. -/
theorem hostOperationsSendTableCommandsOnly : Obligations.HostOperationsSendTableCommandsOnly := by
  intro i s t c evs l b hhost h hcfg hpins htrace hb hlegal
  obtain ⟨evs', bs, htrace', hbs, hbytes⟩ := exec_hostOp_sendsTableBytes hhost h
  obtain rfl := List.append_cancel_left (htrace.symm.trans htrace')
  rw [hbytes c hcfg hpins l] at hb
  obtain ⟨j, hframed, hwf⟩ := hbs _ hb
  exact ⟨j, decodeCommand_framedByte hlegal hframed, hwf⟩

end Sys2Proof.Machine
end

section
/-! The protocol layer (40_protocol R83 to R88): what a send does with a transport and without one, and the line levels
its frame leaves behind. -/

namespace Sys2Proof.Machine

/-! ## A send with and without a transport -/

/-- With a transport a send appends the frames of its bytes, the receiver takes them, and nothing else changes. -/
theorem State.settle_send_some {s : State} {c : Cfg} (hcfg : s.cfg = some c) (bs : List (Level × Byte)) :
    s.settle (s.send bs) = s.withEvents c (frames s.par.spiMode c bs) := by
  rw [s.send_some c bs hcfg, State.settle_ok, s.emit_eq_withEvents c _ hcfg]

/-- What an instruction that only sends bytes answers with a transport. -/
theorem exec_sends {i : Instr} {s : State} {c : Cfg} {bs : List (Level × Byte)}
    (hbs : i.sentBytes s.par.cmd = some bs) (hfault : s.fault = none) (hcfg : s.cfg = some c) :
    exec i s = .next (s.withEvents c (frames s.par.spiMode c bs)) := by
  rw [exec_of_sentBytes hbs, s.run_of_safe _ hfault, State.settle_send_some hcfg]

/-- The next state of an instruction that only sends bytes, where it answers one at all. -/
theorem next_of_exec_sends {i : Instr} {s t : State} {c : Cfg} {bs : List (Level × Byte)}
    (hbs : i.sentBytes s.par.cmd = some bs) (hcfg : s.cfg = some c) (h : exec i s = .next t) :
    t = s.withEvents c (frames s.par.spiMode c bs) := by
  rw [exec_of_sentBytes hbs] at h
  obtain ⟨-, rfl⟩ := (s.run_next_iff t _).1 h
  exact State.settle_send_some hcfg bs

/-- An operation that ends in a fault sets the mark alone (60_exceptions R130). -/
theorem State.run_error {s : State} (hfault : s.fault = none) (code : FaultCode) :
    s.run (.error code) = .next { s with fault := some code } := s.run_of_safe _ hfault

/-- Without a transport a send sets the mark alone (40_protocol R86). -/
theorem State.run_send_none {s : State} (hfault : s.fault = none) (hcfg : s.cfg = none) (bs : List (Level × Byte)) :
    s.run (s.send bs) = .next { s with fault := some .noTransport } := by
  rw [s.send_none bs hcfg, State.run_error hfault]

/-! ## The two primitives -/

/-- Settles O12: `sendCommand` sends its one byte with CD LOW. -/
theorem sendCommandEmitsLowFrame : Obligations.SendCommandEmitsLowFrame :=
  ⟨fun b _ _ hfault hcfg => exec_sends (bs := [(.low, b)]) rfl hfault hcfg,
    fun _ _ hfault hcfg => State.run_send_none hfault hcfg _⟩

/-- Settles O13: `sendData` sends its one byte with CD HIGH. -/
theorem sendDataEmitsHighFrame : Obligations.SendDataEmitsHighFrame :=
  ⟨fun b _ _ hfault hcfg => exec_sends (bs := [(.high, b)]) rfl hfault hcfg,
    fun _ _ hfault hcfg => State.run_send_none hfault hcfg _⟩

/-- A frame drives chip-select HIGH last, and CD to its level (30_encoding R65). -/
theorem lastLevel_frame (mode : Fin 4) {c : Cfg} (lvl : Level) (b : Byte) (hpins : c.cs ≠ c.cd) :
    lastLevel (frame mode c lvl b) c.cs = some .high ∧ lastLevel (frame mode c lvl b) c.cd = some lvl := by
  simp [frame, lastLevel, hpins]

/-- The levels of CS and CD after an instruction that sends one byte (40_protocol R88). -/
theorem lineLevel_of_exec_sends {i : Instr} {s t : State} {c : Cfg} {lvl : Level} {b : Byte}
    (hbs : i.sentBytes s.par.cmd = some [(lvl, b)]) (hcfg : s.cfg = some c) (hpins : c.cs ≠ c.cd)
    (h : exec i s = .next t) : lineLevel t.trace c.cs = .high ∧ lineLevel t.trace c.cd = lvl := by
  obtain ⟨hcs, hcd⟩ := lastLevel_frame s.par.spiMode lvl b hpins
  have htrace : t.trace = s.trace ++ frame s.par.spiMode c lvl b := by rw [next_of_exec_sends hbs hcfg h]; rfl
  simp only [lineLevel, htrace, lastLevel_append, hcs, hcd, Option.some_or, and_self]

/-- Settles O14: each primitive sends one byte, CD at the primitive's level. -/
theorem linesAfterAFrame : Obligations.LinesAfterAFrame :=
  fun _ _ _ _ hcfg hpins =>
    ⟨lineLevel_of_exec_sends rfl hcfg hpins, lineLevel_of_exec_sends rfl hcfg hpins⟩

/-! ## Bus operations without a transport -/

/-- `setEnabled` looks for the transport before anything else, whatever its argument (43_controller R120, R121). -/
theorem exec_setEnabled_none {on : Bool} {s : State} (hfault : s.fault = none) (hcfg : s.cfg = none) :
    exec (.setEnabled on) s = .next { s with fault := some .noTransport } := by
  show execSetEnabled on s = _
  simp only [execSetEnabled, hcfg, State.run_error hfault]

/-- A `setResistor` in range has passed its check and sends its byte (43_controller R123). -/
theorem exec_setResistor_le {v : Nat} (s : State) (hv : v ≤ 7) :
    exec (.setResistor v) s = s.run (s.send [(.low, resistorByte s.par.cmd (resistorField v))]) :=
  congrArg s.run (if_neg (not_lt.2 hv))

/-- A flush with a zero counter, pages and legal columns looks for the transport next (60_exceptions R134). -/
theorem exec_flush_none {x0 y0 x1 y1 : BitVec 16} {s : State} (hfault : s.fault = none) (hcfg : s.cfg = none)
    (hdfc : s.dfc = 0) (hpages : firstPage y0.toInt ≤ lastPage s.par y1.toInt)
    (hcols : badColumns s.par x0.toInt x1.toInt = false) :
    exec (.flush x0 y0 x1 y1) s = .next { s with fault := some .noTransport } := by
  have hresult : s.flushBox x0.toInt y0.toInt x1.toInt y1.toInt = .error .noTransport := by
    rw [State.flushBox, if_neg (not_not.2 hdfc), if_neg (not_lt.2 hpages), hcols, hcfg]
    rfl
  exact (congrArg s.run hresult).trans (State.run_error hfault _)

/-- Settles O16: each operation ends in a send, `setEnabled` and `flush` apart, which look for the transport
themselves. -/
theorem busOperationsNeedATransport : Obligations.BusOperationsNeedATransport := by
  refine ⟨fun i s hfault hcfg hi => ?_, fun x0 y0 x1 y1 s hfault hcfg hdfc hpages hx0 hx0' hx1 => ?_⟩
  · have hsend := State.run_send_none hfault hcfg
    obtain ⟨x, hx⟩ | ⟨b, rfl⟩ | ⟨b, rfl⟩ | ⟨on, rfl⟩ | ⟨v, rfl⟩ | ⟨on, rfl⟩ | ⟨v, rfl, hv⟩ := hi
    · exact (exec_framed i x s hx).trans (hsend _)
    · exact hsend _
    · exact hsend _
    · exact exec_setEnabled_none hfault hcfg
    · exact hsend _
    · exact hsend _
    · exact (exec_setResistor_le s hv).trans (hsend _)
  · rw [← firstPage_eq, ← lastPage_eq] at hpages
    exact exec_flush_none hfault hcfg hdfc hpages (badColumns_eq_false hx0 hx0' hx1)

end Sys2Proof.Machine
end

section
/-! The operations that touch only the framebuffer: `setPixel`, `setOrientation` and `clear` (41_framebuffer R89 to
R101). -/

namespace Sys2Proof.Machine

/-! ## What a pixel write does to a bit -/

/-- The mask of a pixel's bit holds that bit alone (41_framebuffer R93). -/
theorem one_shifted_getLsbD (k : Nat) {n : Nat} (hn : n < 8) : ((1 : Byte) <<< k).getLsbD n = decide (n = k) := by
  change (1#8 <<< k).getLsbD n = _
  rw [BitVec.getLsbD_shiftLeft, BitVec.getLsbD_one, Bool.eq_iff_iff]
  simp only [Bool.and_eq_true, Bool.not_eq_true', decide_eq_true_eq, decide_eq_false_iff_not]
  omega

theorem setBit_getLsbD (b : Byte) (k : Nat) {n : Nat} (hn : n < 8) :
    (setBit b k).getLsbD n = (b.getLsbD n || decide (n = k)) := by
  rw [setBit, BitVec.getLsbD_or, one_shifted_getLsbD k hn]

theorem clearBit_getLsbD (b : Byte) (k : Nat) {n : Nat} (hn : n < 8) :
    (clearBit b k).getLsbD n = (b.getLsbD n && !decide (n = k)) := by
  rw [clearBit, BitVec.getLsbD_and, BitVec.getLsbD_not, one_shifted_getLsbD k hn, decide_eq_true hn, Bool.true_and]

/-- The bit a pixel write leaves where it found `old`: "on" is gated by the enabled flag, "off" is not
(41_framebuffer R93). -/
def mutatedBit (enabled color old : Bool) : Bool := if color = true then old || enabled else false

/-- A pixel write changes the one bit of the byte it is for (41_framebuffer R93). -/
theorem mutatedByte_getLsbD (enabled color : Bool) (k : Nat) (b : Byte) {n : Nat} (hn : n < 8) :
    (mutatedByte enabled color k b).getLsbD n =
      if n = k then mutatedBit enabled color (b.getLsbD n) else b.getLsbD n := by
  cases color with
  | false =>
    refine (clearBit_getLsbD b k hn).trans ?_
    by_cases h : n = k <;> simp [mutatedBit, h]
  | true =>
    cases enabled with
    | false => simp [mutatedByte, mutatedBit]
    | true =>
      refine (setBit_getLsbD b k hn).trans ?_
      by_cases h : n = k <;> simp [mutatedBit, h]

/-- What a pixel write with a target of its own leaves of the bit at a given address (20_memory R39). -/
theorem mutatedRead_getLsbD {target : Option (Int × Nat)} (htarget : ∀ a ∈ target, 0 ≤ a.1) (enabled color : Bool)
    {addr : Int × Nat} (h0 : 0 ≤ addr.1) (h8 : addr.2 < 8) (b : Byte) :
    (mutatedRead target enabled color addr.1.toNat b).getLsbD addr.2 =
      if target = some addr then mutatedBit enabled color (b.getLsbD addr.2) else b.getLsbD addr.2 := by
  cases target with
  | none => rfl
  | some a =>
    have ha : 0 ≤ a.1 := htarget a rfl
    have hindex : addr.1.toNat = a.1.toNat ↔ a.1 = addr.1 := by omega
    by_cases h : a.1 = addr.1
    · simp [mutatedRead, h, mutatedByte_getLsbD enabled color a.2 b h8, Prod.ext_iff, eq_comm]
    · simp [mutatedRead, hindex, h, Prod.ext_iff]

/-! ## The target of a pixel write -/

/-- Where the target is a given physical pixel (41_framebuffer R90 to R92). -/
theorem pixelTarget_eq_pixaddr_iff {p : Params} {q : Int × Int} (hq : inPhysical p q = true) (r : Orient) (x y : Int) :
    pixelTarget p r x y = some (pixaddr p q) ↔ inLogical p r x y = true ∧ transform p r x y = q := by
  constructor
  · intro h
    unfold pixelTarget at h
    split at h
    · next hlogical =>
      split at h
      · next hphysical => exact ⟨hlogical, pixaddr_injective hphysical hq (Option.some.inj h)⟩
      · cases h
    · cases h
  · rintro ⟨hlogical, rfl⟩
    rw [pixelTarget, if_pos hlogical, if_pos hq]

/-- A coordinate inside the logical bounds has a target exactly if the physical re-check passes (41_framebuffer R92). -/
theorem pixelTarget_ne_none_iff {p : Params} {r : Orient} {x y : Int} (h : inLogical p r x y = true) :
    pixelTarget p r x y ≠ none ↔ inPhysical p (transform p r x y) = true := by
  rw [pixelTarget, if_pos h]
  split
  · next hphysical => exact iff_of_true (Option.some_ne_none _) hphysical
  · next hphysical => exact iff_of_false (not_not.2 rfl) hphysical

/-- Behind the buffer a pixel write leaves every byte (20_memory R37). -/
theorem mutatedRead_pixelTarget_outside (p : Params) (r : Orient) (x y : Int) (enabled color : Bool) {j : Nat}
    (hj : p.size ≤ j) (b : Byte) : mutatedRead (pixelTarget p r x y) enabled color j b = b := by
  cases htarget : pixelTarget p r x y with
  | none => rfl
  | some a =>
    obtain ⟨⟨h0, hsize⟩, -⟩ := pixelTarget_in_range p r x y a.1 a.2 htarget
    exact if_neg (by omega)

/-! ## setPixel -/

/-- Without a fault `setPixel` answers a next state, which differs in the framebuffer only (41_framebuffer R94). -/
theorem exec_setPixel_frame (x y : BitVec 16) (color : Bool) {s : State} (hfault : s.fault = none) :
    ∃ t, exec (.setPixel x y color) s = .next t ∧ t = { s with fb := t.fb } := by
  refine ⟨_, s.run_of_safe _ hfault, ?_⟩
  obtain ⟨-, hresult⟩ | ⟨i, k, -, -, -, hresult⟩ := s.setPixelAt_cases (sext16 x) (sext16 y) color <;>
    rw [hresult, State.settle_ok]
  cases color with
  | false => rfl
  | true => rw [if_pos rfl]; split <;> rfl

/-- What a `setPixel` leaves of each pixel (41_framebuffer R94). -/
theorem execSetPixel_pixel {x y : BitVec 16} {color : Bool} {s t : State} (h : exec (.setPixel x y color) s = .next t)
    {q : Int × Int} (hq : inPhysical s.par q = true) :
    t.pixel q =
      if inLogical s.par s.orient x.toInt y.toInt = true ∧ transform s.par s.orient x.toInt y.toInt = q
      then mutatedBit s.enabled color (s.pixel q) else s.pixel q := by
  obtain ⟨hpar, -, -, hreads⟩ := execSetPixel_reads h
  obtain ⟨⟨h0, -⟩, h8⟩ := pixaddr_in_range s.par q hq
  have htarget : ∀ a ∈ pixelTarget s.par s.orient (sext16 x) (sext16 y), 0 ≤ a.1 := fun a ha =>
    (pixelTarget_in_range _ _ _ _ a.1 a.2 ha).1.1
  rw [State.pixel, hpar, hreads, mutatedRead_getLsbD htarget _ _ h0 h8]
  exact if_congr (pixelTarget_eq_pixaddr_iff hq ..) rfl rfl

/-- Settles O23: by what `setPixel` leaves of each pixel and of the bytes behind the buffer. -/
theorem setPixelWritesItsPixelOnly : Obligations.SetPixelWritesItsPixelOnly := by
  intro x y color s hfault
  obtain ⟨t, ht, hframe⟩ := exec_setPixel_frame x y color hfault
  obtain ⟨-, -, -, hreads⟩ := execSetPixel_reads ht
  refine ⟨t, ht, hframe, fun q hq => execSetPixel_pixel ht hq, fun j hj => ?_⟩
  rw [hreads, mutatedRead_pixelTarget_outside _ _ _ _ _ _ hj]

/-- Settles O24: the pixel the coordinate maps to takes the changed bit. -/
theorem setPixelReadsBack : Obligations.SetPixelReadsBack := by
  intro x y color s hfault hlogical hphysical
  obtain ⟨t, ht, -⟩ := exec_setPixel_frame x y color hfault
  have hpixel := (execSetPixel_pixel ht hphysical).trans (if_pos ⟨hlogical, rfl⟩)
  refine ⟨t, ht, fun hwrites => ?_, fun hon hoff => ?_⟩
  · rw [hpixel]
    obtain rfl | henabled := hwrites
    · rfl
    · cases color <;> simp [mutatedBit, henabled]
  · rw [hpixel, hon, hoff]
    exact Bool.or_false _

/-! ## The reachable regions -/

/-- The logical coordinate that maps to a physical pixel: the inverse of `transform` (41_framebuffer R91). -/
def logicalOf (p : Params) : Orient → Int × Int → Int × Int
  | .deg0, q => q
  | .deg90, q => (q.2, reflect p.height q.1)
  | .deg180, q => (reflect p.width q.1, reflect p.height q.2)
  | .deg270, q => (reflect p.width q.2, q.1)

theorem reflect_eq_iff (n v w : Int) : reflect n v = w ↔ v = reflect n w := by
  simp only [reflect]
  omega

theorem transform_eq_iff (p : Params) (r : Orient) (x y : Int) (q : Int × Int) :
    transform p r x y = q ↔ (x, y) = logicalOf p r q := by
  cases r with
  | deg0 => rfl
  | deg90 | deg180 | deg270 => simp only [transform, logicalOf, Prod.ext_iff, reflect_eq_iff, and_comm]

/-- A pixel is reached exactly if the coordinate that maps to it passes the logical bounds check. -/
theorem reached_iff (p : Params) (r : Orient) (q : Int × Int) :
    (∃ x y : Int, inLogical p r x y = true ∧ transform p r x y = q) ↔
      inLogical p r (logicalOf p r q).1 (logicalOf p r q).2 = true := by
  simp only [transform_eq_iff]
  constructor
  · rintro ⟨x, y, h, hxy⟩
    rwa [← hxy]
  · exact fun h => ⟨_, _, h, rfl⟩

/-- Settles O26: both columns of the table are the bounds checks of the transformed coordinate and of the one mapped
back, written out for each orientation. -/
theorem reachableRegions : Obligations.ReachableRegions := by
  refine fun p r => ⟨fun x y h => ?_, fun q h => ?_⟩
  · rw [pixelTarget_ne_none_iff h, inPhysical_iff]
    rw [inLogical_iff] at h
    cases r with
    | deg0 | deg180 => simp only [logicalDims, transform, reflect, iff_true] at h ⊢; omega
    | deg90 | deg270 => simp only [logicalDims, transform, reflect] at h ⊢; omega
  · rw [reached_iff, inLogical_iff]
    rw [inPhysical_iff] at h
    cases r with
    | deg0 | deg180 => simp only [logicalDims, logicalOf, reflect, iff_true] at h ⊢; omega
    | deg90 | deg270 => simp only [logicalDims, logicalOf, reflect] at h ⊢; omega

/-! ## setOrientation and clear -/

theorem orientOf_eq_some_iff (r : Nat) (o : Orient) : orientOf r = some o ↔ orientNumber o = r := by
  constructor
  · intro h
    unfold orientOf at h
    split at h <;> cases h <;> rfl
  · rintro rfl
    cases o <;> rfl

/-- The numbers above 3 are those of no orientation (10_state R19). -/
theorem orientOf_eq_none_iff : (r : Nat) → (orientOf r = none ↔ 3 < r)
  | 0 | 1 | 2 | 3 => by decide
  | r + 4 => iff_of_true rfl (Nat.lt_add_left r (by decide))

/-- Settles O28: a number up to 3 is that of an orientation, a number above is that of none. -/
theorem setOrientationWritesOrFaults : Obligations.SetOrientationWritesOrFaults := by
  refine fun r s hfault => ⟨fun hr => ?_, fun hr => ?_⟩
  · have hsome : orientOf r ≠ none := fun h => absurd ((orientOf_eq_none_iff r).1 h) (not_lt.2 hr)
    obtain ⟨o, ho⟩ := Option.ne_none_iff_exists'.1 hsome
    refine ⟨o, (orientOf_eq_some_iff r o).1 ho, ?_⟩
    show execSetOrientation r s = _
    rw [execSetOrientation, ho, s.run_of_safe _ hfault]
    rfl
  · show execSetOrientation r s = _
    rw [execSetOrientation, (orientOf_eq_none_iff r).2 hr]
    exact State.run_error hfault _

/-- Settles O29: `clear` answers the cleared state. -/
theorem clearZeroesTheBuffer : Obligations.ClearZeroesTheBuffer :=
  fun s hfault => ⟨s.cleared, s.run_of_safe _ hfault, rfl, Memory.zeroed_read⟩

end Sys2Proof.Machine
end

section
/-! The flush (42_flush R102 to R108): its checks in order, the bytes it sends and how many, and what it does not
read. -/

namespace Sys2Proof.Machine

/-! ## The checks, in order -/

/-- The column check as inequalities (42_flush R105). -/
theorem badColumns_eq_true_iff (p : Params) (x0 x1 : Int) :
    badColumns p x0 x1 = true ↔
      x0 < 0 ∨ (p.width : Int) - 1 < x0 ∨ (x0 ≤ x1 ∧ (p.width : Int) - 1 < x1) := by
  simp only [badColumns, Bool.or_eq_true, Bool.and_eq_true, decide_eq_true_eq, gt_iff_lt, or_assoc]

/-- A flush with a non-zero counter does nothing, whatever its box (42_flush R103). -/
theorem exec_flush_deferred {x0 y0 x1 y1 : BitVec 16} {s : State} (hfault : s.fault = none) (hdfc : s.dfc ≠ 0) :
    exec (.flush x0 y0 x1 y1) s = .next s :=
  (s.run_next_iff _ _).2 ⟨hfault, congrArg s.settle (if_pos hdfc)⟩

/-- A flush of no page does nothing, whatever its columns (42_flush R104). -/
theorem exec_flush_noPage {x0 y0 x1 y1 : BitVec 16} {s : State} (hfault : s.fault = none) (hdfc : s.dfc = 0)
    (hempty : lastPage s.par y1.toInt < firstPage y0.toInt) : exec (.flush x0 y0 x1 y1) s = .next s := by
  have hresult : s.flushBox x0.toInt y0.toInt x1.toInt y1.toInt = .ok s := by
    rw [State.flushBox, if_neg (not_not.2 hdfc), if_pos hempty]
  exact (s.run_next_iff _ _).2 ⟨hfault, congrArg s.settle hresult⟩

/-- A flush of pages with a column outside the buffer faults, with a transport or without one (42_flush R105). -/
theorem exec_flush_badColumns {x0 y0 x1 y1 : BitVec 16} {s : State} (hfault : s.fault = none) (hdfc : s.dfc = 0)
    (hpages : firstPage y0.toInt ≤ lastPage s.par y1.toInt) (hcols : badColumns s.par x0.toInt x1.toInt = true) :
    exec (.flush x0 y0 x1 y1) s = .next { s with fault := some .flushColumnRange } := by
  have hresult : s.flushBox x0.toInt y0.toInt x1.toInt y1.toInt = .error .flushColumnRange := by
    rw [State.flushBox, if_neg (not_not.2 hdfc), if_neg (not_lt.2 hpages), if_pos hcols]
  exact (congrArg s.run hresult).trans (State.run_error hfault _)

/-- Settles O30: the counter is the first check. -/
theorem flushIsIgnoredWhileDeferred : Obligations.FlushIsIgnoredWhileDeferred :=
  fun _ _ _ _ _ hfault hdfc => exec_flush_deferred hfault hdfc

/-- Settles O31: the quotients are floors, and the height is a whole number of pages. -/
theorem pageRangeIsFloored : Obligations.PageRangeIsFloored := by
  intro p y0 y1
  have hpages := p.pages_pos
  have hheight := p.height_eq
  refine ⟨?_, ?_, ?_, fun hrange => ?_⟩
  · rw [firstPage_eq]; omega
  · rw [lastPage_eq]; omega
  · rw [firstPage_eq, lastPage_eq]; omega
  · exact ⟨(pages_in_range p y0 y1 _ ⟨le_rfl, hrange⟩).1,
      Int.le_sub_one_of_lt (pages_in_range p y0 y1 _ ⟨hrange, le_rfl⟩).2⟩

/-- Settles O33: one clause for each check that ends a flush. -/
theorem flushChecksInOrder : Obligations.FlushChecksInOrder := by
  intro x0 y0 x1 y1 s hfault
  simp only [← firstPage_eq, ← lastPage_eq]
  refine ⟨exec_flush_deferred hfault, exec_flush_noPage hfault, fun hdfc hpages hcols => ?_,
    fun hdfc hpages hcfg hx0 hx0' hx1 => ?_⟩
  · exact exec_flush_badColumns hfault hdfc hpages ((badColumns_eq_true_iff ..).2 hcols)
  · exact exec_flush_none hfault hcfg hdfc hpages (badColumns_eq_false hx0 hx0' hx1)

/-! ## The bytes of a page -/

/-- A field by its value, as it stands in a command byte (30_encoding R70). -/
theorem setWidth_eq_ofNat_of_toNat_eq {n v : Nat} {f : BitVec n} (h : f.toNat = v) (m : Nat) :
    f.setWidth m = BitVec.ofNat m v := by
  rw [← h, BitVec.ofNat_toNat]

/-- The address commands on natural numbers (30_encoding R71, R73). -/
theorem addressBytes_natCast (cmd : CommandBytes) {x q : Nat} (hx : x < 256) (hq : q < 16) :
    addressBytes cmd x q =
      [(.low, cmd.colMsb ||| BitVec.ofNat 8 (x / 16)), (.low, cmd.colLsb ||| BitVec.ofNat 8 (x % 16)),
        (.low, cmd.page ||| BitVec.ofNat 8 q)] := by
  simp only [addressBytes, colMsbByte, colLsbByte, pageByte, setWidth_eq_ofNat_of_toNat_eq (colHigh_natCast hx),
    setWidth_eq_ofNat_of_toNat_eq (colLow_natCast x), setWidth_eq_ofNat_of_toNat_eq (pageField_natCast hq)]

/-- A page of the buffer from a column of the buffer on is sent as the spec writes it out (42_flush R106). -/
theorem State.pageList_eq_expectedPage (s : State) {x q : Nat} (hx : x < s.par.width) (hq : q < s.par.pages)
    (x1 : Int) : s.pageList x x x1 q = expectedPage s x x1 q := by
  rw [s.pageList_natCast, addressBytes_natCast _ (hx.trans_le s.par.width_le) (hq.trans_le s.par.pages_le)]
  rfl

/-- The command bytes of a page are its address. -/
theorem State.pageList_filter_low (s : State) (c x0 x1 p : Int) :
    (s.pageList c x0 x1 p).filter (·.1 == .low) = addressBytes s.par.cmd c p := by
  simp [State.pageList, addressBytes, List.filter_map, Function.comp_def]

/-- The data bytes of a page are the framebuffer bytes of its columns. -/
theorem State.pageList_filter_high (s : State) (c x0 x1 p : Int) :
    (s.pageList c x0 x1 p).filter (·.1 == .high) =
      (span x0 x1).map fun x => (.high, s.fb.read (x + p * s.par.width).toNat) := by
  simp [State.pageList, addressBytes, List.filter_map, Function.comp_def]

/-! ## The bytes of a flush -/

/-- Without an offset the bytes of a flush are those the spec writes out (42_flush R106). -/
theorem State.flushBytes_eq_expectedFlush (s : State) {c : Cfg} (hoffset : c.hoffset = 0) {x0 : Int} (hx0 : 0 ≤ x0)
    (hx0' : x0 ≤ (s.par.width : Int) - 1) (y0 x1 y1 : Int) :
    s.flushBytes c x0 y0 x1 y1 = expectedFlush s x0 y0 x1 y1 := by
  lift x0 to ℕ using hx0
  simp only [State.flushBytes, expectedFlush, span, List.flatMap_map, hoffset, add_zero, ← firstPage_eq, ← lastPage_eq]
  refine List.flatMap_congr fun k hk => ?_
  rw [List.mem_range] at hk
  obtain ⟨-, hlast⟩ := pages_in_range s.par y0 y1 (firstPage y0 + k) ⟨by omega, by omega⟩
  have hfirst : 0 ≤ firstPage y0 := by rw [firstPage_eq]; omega
  have hpage : firstPage y0 + k = ((firstPage y0).toNat + k : ℕ) := by omega
  rw [hpage] at hlast ⊢
  exact s.pageList_eq_expectedPage (by omega) (by exact_mod_cast hlast) x1

/-- Settles O32: a flush that passes its checks sends its pages, each as the spec writes it out. -/
theorem flushSendsItsPages : Obligations.FlushSendsItsPages := by
  intro x0 y0 x1 y1 s c hfault hcfg hoffset hdfc hpages hx0 hx0' hx1
  rw [← firstPage_eq, ← lastPage_eq] at hpages
  rw [exec_flush_sends hfault hcfg hdfc hpages (badColumns_eq_false hx0 hx0' hx1),
    s.flushBytes_eq_expectedFlush hoffset hx0 hx0']

/-- A flush has as many bytes of a level as its pages together, if each page has the same number of them. -/
theorem State.flushBytes_filter_length (s : State) (c : Cfg) {x0 y0 x1 y1 : Int} {l : Level} {n k : Nat}
    (hn : (n : Int) = lastPage s.par y1 - firstPage y0 + 1)
    (hpage : ∀ q, ((s.pageList (x0 + c.hoffset) x0 x1 q).filter (·.1 == l)).length = k) :
    ((s.flushBytes c x0 y0 x1 y1).filter (·.1 == l)).length = n * k := by
  have hspan : (span (firstPage y0) (lastPage s.par y1)).length = n := by rw [span_length]; omega
  simp only [State.flushBytes, List.filter_flatMap, List.length_flatMap, hpage, List.map_const', List.sum_replicate,
    hspan, smul_eq_mul]

/-- Settles O34: the byte stream of the events is the bytes of the flush, with three command bytes and a data byte for
each column in each page. -/
theorem flushCountsItsBytes : Obligations.FlushCountsItsBytes := by
  intro x0 y0 x1 y1 s t c n w hfault hcfg hpins hdfc hn hpos hw hx0 hx0' hx1 h
  rw [← firstPage_eq, ← lastPage_eq] at hn
  rw [exec_flush_sends hfault hcfg hdfc (by omega) (badColumns_eq_false hx0 hx0' hx1)] at h
  obtain rfl := Host.Outcome.next.inj h
  have hbytes (bs) : bytesOf c.cd (frames s.par.spiMode c bs) = bs := bytesFrom_frames _ c bs _ hpins
  refine ⟨_, rfl, ?_, ?_, ?_⟩
  · rw [frames_length, s.flushBytes_length c hn hw, mul_assoc]
  · rw [hbytes, mul_comm]
    exact s.flushBytes_filter_length c hn fun q => by rw [s.pageList_filter_low]; rfl
  · rw [hbytes]
    exact s.flushBytes_filter_length c hn fun q => by
      rw [s.pageList_filter_high, List.length_map, span_length]
      omega

/-! ## What a flush does not read -/

/-- Settles O35: each check, and the bytes sent, are the same under another flag, controller state and orientation. -/
theorem flushIgnoresFlagStateAndOrientation : Obligations.FlushIgnoresFlagStateAndOrientation := by
  intro x0 y0 x1 y1 s t e k o h
  obtain ⟨hfault, -⟩ := (s.run_next_iff t _).1 h
  obtain ⟨hdfc, -⟩ | ⟨hdfc, hempty, -⟩ | ⟨hdfc, hpages, hcols, -⟩ | ⟨hdfc, hpages, hcols, hcfg, -⟩ |
    ⟨c, hdfc, hpages, hcols, hcfg, -⟩ := s.flushBox_cases x0.toInt y0.toInt x1.toInt y1.toInt
  · obtain rfl := Host.Outcome.next.inj (h.symm.trans (exec_flush_deferred hfault hdfc))
    exact exec_flush_deferred hfault hdfc
  · obtain rfl := Host.Outcome.next.inj (h.symm.trans (exec_flush_noPage hfault hdfc hempty))
    exact exec_flush_noPage hfault hdfc hempty
  · obtain rfl := Host.Outcome.next.inj (h.symm.trans (exec_flush_badColumns hfault hdfc hpages hcols))
    exact exec_flush_badColumns hfault hdfc hpages hcols
  · obtain rfl := Host.Outcome.next.inj (h.symm.trans (exec_flush_none hfault hcfg hdfc hpages hcols))
    exact exec_flush_none hfault hcfg hdfc hpages hcols
  · obtain rfl := Host.Outcome.next.inj (h.symm.trans (exec_flush_sends hfault hcfg hdfc hpages hcols))
    exact exec_flush_sends hfault hcfg hdfc hpages hcols

end Sys2Proof.Machine
end

section
/-! The events of init, item by item (43_controller R113 to R119): that they are those the spec lists, how many they are,
and the line levels they leave behind. -/

namespace Sys2Proof.Machine

/-! ## Command bytes with their fields written out (30_encoding R70) -/

theorem evValueByte_eq_ofNat (v : BitVec 6) : evValueByte v = BitVec.ofNat 8 v.toNat :=
  setWidth_eq_ofNat_of_toNat_eq rfl 8

theorem comByte_eq (cmd : CommandBytes) (m : Bool) : comByte cmd m = cmd.com ||| if m = true then 8 else 0 := by
  cases m <;> rfl

theorem powerByte_zero (cmd : CommandBytes) : powerByte cmd 0 = cmd.power := BitVec.or_zero

theorem displayByte_false (cmd : CommandBytes) : displayByte cmd false = cmd.display := BitVec.or_zero

/-- The items of init with every field at its value (43_controller R116). -/
theorem initItems_eq (p : Params) (c : Cfg) :
    initItems p c =
      [[(.low, p.cmd.sysreset)], [(.low, p.cmd.display)], [(.low, p.cmd.scroll)],
        [(.low, p.cmd.seg ||| if c.xflip = true then 1 else 0)], [(.low, p.cmd.com ||| if c.yflip = true then 8 else 0)],
        [(.low, p.cmd.allpix)], [(.low, p.cmd.inverse)], [(.low, p.cmd.bias ||| if p.bias = true then 1 else 0)],
        [(.low, p.cmd.power ||| 7)], [(.low, p.cmd.resistor ||| p.initResistor.setWidth 8)],
        [(.low, 0x81), (.high, p.initContrast.setWidth 8)], [(.low, p.cmd.apc), (.high, p.apcValue)],
        [(.low, p.cmd.allpix)], [(.low, p.cmd.display ||| 1)]] := by
  have hscroll : scrollByte p.cmd 0 = p.cmd.scroll := BitVec.or_zero
  have hinverse : inverseByte p.cmd false = p.cmd.inverse := BitVec.or_zero
  rw [initItems, displayByte_false, hscroll, hinverse, comByte_eq]
  rfl

/-! ## The order of the events -/

theorem resetPulse_eq (c : Cfg) : resetPulse c = expectedPulse c.rst := by
  unfold resetPulse
  cases c.rst <;> rfl

theorem cooldownIf_eq (p : Params) (k : Nat) : cooldownIf (k == p.cooldown2.val) = expectedCooldown p k := by
  simp only [cooldownIf, expectedCooldown, Config.tCool, BEq.comm (a := k), beq_iff_eq]

theorem itemEvents_cons (p : Params) (c : Cfg) {k : Nat} (hk : k ≠ fixedCooldown) (bs : List (Level × Byte))
    (rest : List (List (Level × Byte))) :
    itemEvents p c k (bs :: rest) = expectedItem p c k bs ++ itemEvents p c (k + 1) rest := by
  rw [itemEvents, cooldownIf_eq, beq_eq_false_iff_ne.2 hk, expectedItem]
  exact congrArg (· ++ _ ++ _) (List.append_nil _)

/-- Behind power-control-on the fixed cooldown stands before the second one (43_controller R116, R117). -/
theorem itemEvents_fixedCooldown (p : Params) (c : Cfg) (bs : List (Level × Byte)) (rest : List (List (Level × Byte))) :
    itemEvents p c 9 (bs :: rest) =
      frames p.spiMode c bs ++ [.delay 10] ++ expectedCooldown p 9 ++ itemEvents p c 10 rest := by
  rw [itemEvents, cooldownIf_eq]
  rfl

/-- The events of init are those the spec lists, in its order (43_controller R113 to R118). -/
theorem initEvents_eq_expectedInit (p : Params) (c : Cfg) : initEvents p c = expectedInit p c := by
  have hfirst : cooldownIf (p.cooldown2.val == 0) = expectedCooldown p 0 := by rw [BEq.comm, cooldownIf_eq]
  have hlast : itemEvents p c 15 [] = [] := rfl
  rw [initEvents, commandList, resetPulse_eq, hfirst, initItems_eq, controlLines]
  -- `delta`, because the equation lemma of so long a definition is costly to generate
  delta expectedInit
  simp (disch := decide) only [itemEvents_cons, itemEvents_fixedCooldown, hlast, BitVec.ofNat_toNat, Nat.reduceAdd,
    List.append_assoc, List.append_nil]

/-! ## The number of the events -/

theorem cooldownIf_length (due : Bool) : (cooldownIf due).length = if due = true then 1 else 0 := by
  cases due <;> rfl

/-- Each byte costs six events, and each cooldown due behind one of the items one more. -/
theorem itemEvents_length (p : Params) (c : Cfg) (items : List (List (Level × Byte))) (k : Nat) :
    (itemEvents p c k items).length = 6 * items.flatten.length
      + (if k ≤ fixedCooldown ∧ fixedCooldown < k + items.length then 1 else 0)
      + (if k ≤ p.cooldown2.val ∧ p.cooldown2.val < k + items.length then 1 else 0) := by
  have hdue : ∀ k n m : Nat, (if k ≤ m ∧ m < k + (n + 1) then 1 else 0) =
      (if k = m then 1 else 0) + if k + 1 ≤ m ∧ m < k + 1 + n then 1 else 0 := by
    intro k n m
    split_ifs <;> omega
  induction items generalizing k with
  | nil =>
    simp only [itemEvents, List.length_nil, List.flatten_nil]
    split_ifs <;> omega
  | cons bs rest ih =>
    simp only [itemEvents, List.length_append, frames_length, cooldownIf_length, ih, List.flatten_cons,
      List.length_cons, beq_iff_eq, hdue]
    ring

/-- The second cooldown stands before the items or behind one of them, so it is there exactly once. -/
theorem commandList_length (p : Params) (c : Cfg) : (commandList p c).length = 98 := by
  have hplace := p.cooldown2.isLt
  have hitems : (initItems p c).length = 14 ∧ (initItems p c).flatten.length = 16 := ⟨rfl, rfl⟩
  simp only [commandList, List.length_append, itemEvents_length, cooldownIf_length, hitems, fixedCooldown, beq_iff_eq]
  split_ifs <;> omega

theorem initEvents_length (p : Params) (c : Cfg) :
    (initEvents p c).length = if c.rst = none then 102 else 107 := by
  simp only [initEvents, List.length_append, commandList_length, resetPulse_eq]
  cases c.rst <;> rfl

/-! ## The line levels behind the events -/

theorem lineLevel_append_of_lastLevel {u : List Event} {pin : Nat} {l : Level} (h : lastLevel u pin = some l)
    (t : List Event) : lineLevel (t ++ u) pin = l := by
  simp only [lineLevel, lastLevel_append, h, Option.some_or]

theorem lastLevel_cooldownIf (due : Bool) (pin : Nat) : lastLevel (cooldownIf due) pin = none := by
  cases due <;> rfl

/-- A cooldown drives no line, so the items leave the levels their bytes' frames leave. -/
theorem lastLevel_itemEvents (p : Params) (c : Cfg) (items : List (List (Level × Byte))) (k pin : Nat) :
    lastLevel (itemEvents p c k items) pin = lastLevel (frames p.spiMode c items.flatten) pin := by
  induction items generalizing k with
  | nil => rfl
  | cons bs rest ih =>
    rw [List.flatten_cons, frames, List.flatMap_append]
    simp only [itemEvents, lastLevel_append, lastLevel_cooldownIf, ih, Option.none_or]
    rfl

/-- The frames of some bytes leave chip-select HIGH and CD at the level of the last byte (30_encoding R65). -/
theorem lastLevel_frames (mode : Fin 4) {c : Cfg} {bs : List (Level × Byte)} {x : Level × Byte}
    (hlast : bs.getLast? = some x) (hpins : c.cs ≠ c.cd) :
    lastLevel (frames mode c bs) c.cs = some .high ∧ lastLevel (frames mode c bs) c.cd = some x.1 := by
  obtain ⟨hcs, hcd⟩ := lastLevel_frame mode x.1 x.2 hpins
  rw [← List.dropLast_append_getLast? x hlast, frames, List.flatMap_append]
  simp only [lastLevel_append, List.flatMap_cons, List.flatMap_nil, List.append_nil, hcs, hcd, Option.some_or, and_self]

/-- Init ends with a command byte, whose frame leaves chip-select HIGH and CD LOW (43_controller R119). -/
theorem lastLevel_initEvents (p : Params) {c : Cfg} (hpins : c.cs ≠ c.cd) :
    lastLevel (initEvents p c) c.cs = some .high ∧ lastLevel (initEvents p c) c.cd = some .low := by
  have hlast : (initItems p c).flatten.getLast? = some (.low, displayByte p.cmd true) := rfl
  obtain ⟨hcs, hcd⟩ := lastLevel_frames p.spiMode hlast hpins
  simp only [initEvents, commandList, lastLevel_append, lastLevel_itemEvents, hcs, hcd, Option.some_or, and_self]

/-- The reset pulse is the last to drive the reset line, and ends HIGH (43_controller R115, R119). -/
theorem lastLevel_initEvents_rst (p : Params) {c : Cfg} {pin : Nat} (hrst : c.rst = some pin) (hcs : pin ≠ c.cs)
    (hcd : pin ≠ c.cd) : lastLevel (initEvents p c) pin = some .high := by
  have hpulse : lastLevel (resetPulse c) pin = some .high := by simp [resetPulse, hrst, lastLevel]
  simp only [initEvents, commandList, lastLevel_append, lastLevel_itemEvents, lastLevel_frames_other _ c _ pin hcs hcd,
    lastLevel_cooldownIf, hpulse, Option.none_or, Option.some_or]

end Sys2Proof.Machine
end

section
/-! The controller's operations (43_controller R110 to R124): begin, enable, disable and the settings. -/

namespace Sys2Proof.Machine

/-! ## begin -/

theorem badPins_eq_true_iff (cs cd : Nat) (rst : Option Nat) :
    badPins cs cd rst = true ↔ cs = cd ∨ rst = some cs ∨ rst = some cd := by
  simp only [badPins, Bool.or_eq_true, beq_iff_eq, or_assoc]

theorem badPins_of_distinct {cs cd : Nat} {rst : Option Nat} (hpins : cs ≠ cd) (hcs : rst ≠ some cs)
    (hcd : rst ≠ some cd) : badPins cs cd rst = false := by
  rw [Bool.eq_false_iff, Ne, badPins_eq_true_iff]
  exact not_or_intro hpins (not_or_intro hcs hcd)

/-- With a transport and distinct pins `begin` records its configuration and runs init with it (43_controller R110). -/
theorem exec_begin_inits {clk cs cd : Nat} {rst : Option Nat} {xf yf : Bool} {s : State} (hfault : s.fault = none)
    (hpins : badPins cs cd rst = false) :
    exec (.beginOp true clk cs cd rst xf yf) s =
      .next (({ s with cfg := some (recordCfg clk cs cd rst xf yf) } : State).init (recordCfg clk cs cd rst xf yf)) := by
  refine (congrArg s.run ?_).trans (s.run_of_safe (.ok _) hfault)
  rw [State.beginWith, if_pos rfl]
  exact if_neg (Bool.eq_false_iff.1 hpins)

/-- What such a `begin` answers, with the events of init in one piece (43_controller R118). -/
theorem exec_begin_boots {clk cs cd : Nat} {rst : Option Nat} {xf yf : Bool} {s : State} {c : Cfg}
    (hfault : s.fault = none) (hpins : badPins cs cd rst = false) (hc : c = recordCfg clk cs cd rst xf yf) :
    exec (.beginOp true clk cs cd rst xf yf) s =
      .next { s.withEvents c (initEvents s.par c) with
        cfg := some c, fb := Memory.zeroed, dfc := 0, enabled := true, ctl := .enabled } := by
  subst hc
  rw [exec_begin_inits hfault hpins, State.init_eq rfl]
  rfl

/-- Settles O37: `begin` boots the block, and the events of init are those the spec lists. -/
theorem beginBootsTheBlock : Obligations.BeginBootsTheBlock := by
  intro clk cs cd rst xf yf s c hfault hpins hcs hcd hc
  have hexec := exec_begin_boots hfault (badPins_of_distinct hpins hcs hcd) hc
  rw [initEvents_eq_expectedInit] at hexec
  exact ⟨_, hexec, rfl, Memory.zeroed_read⟩

/-- Settles O38: the events of init are counted, read as bytes and as line levels. -/
theorem initCountsBytesAndLines : Obligations.InitCountsBytesAndLines := by
  intro clk cs cd rst xf yf s t hfault hpins hcs hcd h
  let c := recordCfg clk cs cd rst xf yf
  obtain rfl := Host.Outcome.next.inj
    (h.symm.trans (exec_begin_boots (c := c) hfault (badPins_of_distinct hpins hcs hcd) rfl))
  obtain ⟨hcsLevel, hcdLevel⟩ := lastLevel_initEvents s.par (c := c) hpins
  have hbytes := bytesFrom_initEvents s.par (c := c) hpins (Config.freeLevel cd)
  rw [initItems_eq] at hbytes
  refine ⟨initEvents s.par c, rfl, initEvents_length .., hbytes, lineLevel_append_of_lastLevel hcsLevel _,
    lineLevel_append_of_lastLevel hcdLevel _, fun pin hpin => lineLevel_append_of_lastLevel ?_ _⟩
  exact lastLevel_initEvents_rst s.par (c := c) hpin (by rintro rfl; exact hcs hpin) (by rintro rfl; exact hcd hpin)

/-- Settles O39: without a transport the controller state alone decides. -/
theorem beginWithoutTransport : Obligations.BeginWithoutTransport := by
  intro clk cs cd rst xf yf s hfault
  have hexec : exec (.beginOp false clk cs cd rst xf yf) s =
      s.run (if s.ctl = .uninit then .ok (s.report .cfgNoTransport) else .error .rebeginNoTransport) := rfl
  refine ⟨fun hctl => ?_, fun hctl => ?_⟩
  · rw [hexec, if_pos hctl, s.run_of_safe _ hfault]
    rfl
  · rw [hexec, if_neg hctl, State.run_error hfault]

/-- Settles O40: the pin check comes before the configuration is recorded. -/
theorem beginRefusesAliasedPins : Obligations.BeginRefusesAliasedPins := by
  intro clk cs cd rst xf yf s hfault halias
  refine (congrArg s.run ?_).trans (State.run_error hfault .badPinConfig)
  rw [State.beginWith, if_pos rfl]
  exact if_pos ((badPins_eq_true_iff cs cd rst).2 halias)

/-! ## Enable and disable -/

theorem exec_setEnabled_some {on : Bool} {s : State} {c : Cfg} (hfault : s.fault = none) (hcfg : s.cfg = some c) :
    exec (.setEnabled on) s = .next (if on then s.init c else s.disable c) := by
  show execSetEnabled on s = _
  simp only [execSetEnabled, hcfg, s.run_of_safe _ hfault, State.settle_ok]

/-- Recording the configuration a state already has, with the offset of every `begin`, changes nothing. -/
theorem recordCfg_self {c : Cfg} (hoffset : c.hoffset = 0) :
    recordCfg c.clock c.cs c.cd c.rst c.xflip c.yflip = c := by
  simp only [recordCfg, Config.hoffset, ← hoffset]

theorem State.with_cfg_self {s : State} {c : Cfg} (hcfg : s.cfg = some c) : { s with cfg := some c } = s := by
  rw [← hcfg]

/-- Settles O43: both operations run init with the same configuration in the same state. -/
theorem enableIsInitAgain : Obligations.EnableIsInitAgain := by
  refine fun s hfault => ⟨fun c hcfg hpins hoffset => ?_, exec_setEnabled_none hfault⟩
  have henable : exec (.setEnabled true) s = .next (s.init c) := exec_setEnabled_some hfault hcfg
  have hbegin : exec (.beginOp true c.clock c.cs c.cd c.rst c.xflip c.yflip) s = .next (s.init c) := by
    rw [exec_begin_inits hfault hpins, recordCfg_self hoffset, State.with_cfg_self hcfg]
  refine ⟨henable.trans hbegin.symm, s.init c, henable, ?_⟩
  rw [State.init_eq hcfg]
  exact ⟨rfl, rfl, rfl, rfl, Memory.zeroed_read⟩

/-- Settles O41: with a configuration the block is disabled, without one the transport is missing. -/
theorem disableSequence : Obligations.DisableSequence := by
  refine fun s hfault => ⟨fun c hcfg => ?_, exec_setEnabled_none hfault⟩
  rw [exec_setEnabled_some hfault hcfg, if_neg Bool.false_ne_true, State.disable_eq hcfg, disableEvents, powerByte_zero,
    displayByte_false]
  rfl

/-! ## Settings -/

/-- The contrast value is sent modulo 64 (43_controller R122). -/
theorem contrastByte_eq_mod (v : Byte) : contrastByte v = BitVec.ofNat 8 (v.toNat % 64) := by
  rw [contrastByte_eq, evValueByte_eq_ofNat, BitVec.toNat_setWidth]

/-- Settles O44: it sends two bytes, the second its masked value. -/
theorem setContrastMasksItsValue : Obligations.SetContrastMasksItsValue := by
  refine fun v s hfault => ⟨fun c hcfg => ?_, fun hcfg => State.run_send_none hfault hcfg _⟩
  rw [← contrastByte_eq_mod]
  exact exec_sends rfl hfault hcfg

/-- A value in 0..7 is its own field in the command byte (30_encoding R74). -/
theorem resistorByte_resistorField (cmd : CommandBytes) {v : Nat} (hv : v ≤ 7) :
    resistorByte cmd (resistorField v) = cmd.resistor ||| BitVec.ofNat 8 v := by
  have hfield : (resistorField v).toNat = v := Nat.mod_eq_of_lt (Nat.lt_succ_of_le hv)
  rw [resistorByte, setWidth_eq_ofNat_of_toNat_eq hfield]

/-- Settles O45: the range is checked before the transport. -/
theorem setResistorSendsOrFaults : Obligations.SetResistorSendsOrFaults := by
  refine fun v s hfault => ⟨fun c hv hcfg => ?_, fun hv hcfg => ?_, fun hv => ?_⟩
  · rw [exec_setResistor_le s hv, s.run_of_safe _ hfault, State.settle_send_some hcfg, resistorByte_resistorField _ hv]
  · rw [exec_setResistor_le s hv, State.run_send_none hfault hcfg]
  · exact (congrArg s.run (if_pos hv)).trans (State.run_error hfault .badArgument)

/-- Settles O46: it sends one byte. -/
theorem setInvertedSendsItsCommand : Obligations.SetInvertedSendsItsCommand :=
  fun on _ hfault => ⟨fun _ hcfg => exec_sends (i := .setInverted on) rfl hfault hcfg,
    fun hcfg => State.run_send_none hfault hcfg _⟩

end Sys2Proof.Machine
end

section
/-! Faults (60_exceptions R130): only the sticky mark stops an operation, and one that raises a fault sets it alone. -/

namespace Sys2Proof.Machine

/-! ## What stops an instruction or a step -/

/-- Every instruction runs an operation, so that it ends in a next state or at the mark (60_exceptions R130). -/
theorem exec_runs (i : Instr) (s : State) : ∃ result, exec i s = s.run result := by
  cases i.shape s.par.cmd with
  | sends hbs => exact ⟨_, exec_of_sentBytes hbs⟩
  | beginOp | clear | setPixel | setEnabled | setResistor | flush | setOrientation => exact ⟨_, rfl⟩

theorem exec_of_faulted (i : Instr) {s : State} {code : FaultCode} (hfault : s.fault = some code) :
    exec i s = .fault (.stopped code) := by
  obtain ⟨result, hrun⟩ := exec_runs i s
  rw [hrun, s.run_of_faulted code result hfault]

theorem exec_of_safe (i : Instr) {s : State} (hfault : s.fault = none) : ∃ t, exec i s = .next t := by
  obtain ⟨result, hrun⟩ := exec_runs i s
  exact ⟨s.settle result, hrun.trans (s.run_of_safe result hfault)⟩

theorem exec_ne_refused (i : Instr) (s : State) (why : Refusal) : exec i s ≠ .refused why := by
  cases hfault : s.fault with
  | none =>
    obtain ⟨t, hnext⟩ := exec_of_safe i hfault
    simp [hnext]
  | some code => simp [exec_of_faulted i hfault]

/-- A faulted block fetches nothing, whatever the host has called (10_state R28). -/
theorem step_of_faulted {s : State} {code : FaultCode} (hfault : s.fault = some code) :
    step s = .fault (.stopped code) := by
  have hfetch : s.fetch = .halted code := by simp only [State.fetch, hfault]
  simp only [step, hfetch]

/-- Settles O9: every instruction runs an operation, and of running only the mark decides how it ends. -/
theorem onlyTheFaultMarkStops : Obligations.OnlyTheFaultMarkStops :=
  ⟨exec_ne_refused, fun i _ _ => exec_of_faulted i, fun _ _ => step_of_faulted, fun i _ => exec_of_safe i⟩

/-! ## What a fault changes -/

theorem fault_eq_none_of_exec_next {i : Instr} {s t : State} (h : exec i s = .next t) : s.fault = none := by
  obtain ⟨result, hrun⟩ := exec_runs i s
  exact ((s.run_next_iff t result).1 (hrun.symm.trans h)).1

/-- Of all changes only `raised` writes the mark (60_exceptions R130). -/
theorem Change.raised_or_keeps_fault {s t : State} {i : Instr} (h : Change s i t) :
    (∃ code, t = s.raise code) ∨ t.fault = s.fault := by
  cases h with
  | raised code => exact .inl ⟨code, rfl⟩
  | ignoredPixel | ignoredFlush | sent | drew | turned | cleared | reported | began | enabled | disabled =>
    exact .inr rfl

/-- Settles O10: a mark that was not there before was raised, and raising sets nothing else. -/
theorem faultSetsOnlyTheMark : Obligations.FaultSetsOnlyTheMark := by
  intro i s t code h hcode
  obtain ⟨raised, rfl⟩ | hkept := (exec_change h).raised_or_keeps_fault
  · obtain rfl : raised = code := Option.some.inj hcode
    rfl
  · have hnone : t.fault = none := hkept.trans (fault_eq_none_of_exec_next h)
    cases hnone.symm.trans hcode

end Sys2Proof.Machine
end

section
/-! Waiting and refusing (70_reset R147, 30_encoding R80), and what a disable leaves behind (10_state R29, 20_memory R55,
70_reset R156). -/

namespace Sys2Proof.Machine

/-! ## Steps that run no instruction -/

theorem step_of_input_nil {s : State} (hfault : s.fault = none) (hinput : s.input = []) : step s = .next s := by
  have hfetch : s.fetch = .waiting := by simp only [State.fetch, hfault, hinput]
  simp only [step, hfetch]

theorem step_of_decode_error {s : State} {item : Item} {rest : List Item} {why : Reject} (hfault : s.fault = none)
    (hinput : s.input = item :: rest) (hdecode : decode s.par.cmd s.lastByte (withDefaults s.par item) = .error why) :
    step s = .refused (.undecodable why) := by
  have hfetch : s.fetch = .rejected why := by simp only [State.fetch, hfault, hinput, hdecode]
  simp only [step, hfetch]

/-- Settles O7: the fetch waits on an empty input and rejects an entry that does not decode. -/
theorem stepWaitsOrRefuses : Obligations.StepWaitsOrRefuses :=
  ⟨fun _ => step_of_input_nil, fun _ _ _ _ => step_of_decode_error⟩

/-! ## The end of a disable -/

/-- The events that end `setEnabled(false)`: chip-select and command/data fall, and the block waits (43_controller
R120). -/
def disableTail (c : Cfg) : List Event := [.pinLevel c.cs .low, .pinLevel c.cd .low, .delay Config.tOff]

theorem disableEvents_eq_append_tail (p : Params) (c : Cfg) : ∃ before, disableEvents p c = before ++ disableTail c :=
  ⟨_, rfl⟩

/-- Where a reset pin is configured, its line falls after the last byte and before the other two lines. -/
theorem disableEvents_eq_append_of_rst (p : Params) {c : Cfg} {pin : Nat} (hrst : c.rst = some pin) :
    ∃ before, disableEvents p c = before ++ .pinLevel pin .low :: disableTail c := by
  simp only [disableEvents, hrst, List.append_assoc, List.singleton_append]
  exact ⟨_, (List.append_assoc ..).symm⟩

theorem lastLevel_disableEvents (p : Params) {c : Cfg} (hpins : c.cs ≠ c.cd) :
    lastLevel (disableEvents p c) c.cs = some .low ∧ lastLevel (disableEvents p c) c.cd = some .low := by
  obtain ⟨before, hevents⟩ := disableEvents_eq_append_tail p c
  simp [hevents, lastLevel_append, disableTail, lastLevel, Ne.symm hpins]

theorem lastLevel_disableEvents_rst (p : Params) {c : Cfg} {pin : Nat} (hrst : c.rst = some pin) (hcs : c.cs ≠ pin)
    (hcd : c.cd ≠ pin) : lastLevel (disableEvents p c) pin = some .low := by
  obtain ⟨before, hevents⟩ := disableEvents_eq_append_of_rst p hrst
  simp [hevents, lastLevel_append, disableTail, lastLevel, hcs, hcd]

/-- The other two lines carry no byte and are not the reset line, so their fall leaves the receiver as it was. -/
theorem recvEvents_disableTail (p : Params) {c : Cfg} (ln : Lines) (r : Rx) (hcs : c.rst ≠ some c.cs)
    (hcd : c.rst ≠ some c.cd) : recvEvents p c ln r (disableTail c) = r := by
  simp only [disableTail, recvEvents, recvEvent, hcs, hcd, false_and, if_false]

/-- Whatever the bytes sent before did, the fall of the reset line makes the whole receiver a draw, and nothing follows
that changes it (20_memory R55). -/
theorem recvEvents_disableEvents_rst (p : Params) {c : Cfg} {pin : Nat} (ln : Lines) (r : Rx) (hrst : c.rst = some pin)
    (hcs : c.rst ≠ some c.cs) (hcd : c.rst ≠ some c.cd) :
    ∃ r', recvEvents p c ln r (disableEvents p c) = Rx.drawAll r' := by
  obtain ⟨before, hevents⟩ := disableEvents_eq_append_of_rst p hrst
  refine ⟨recvEvents p c ln r before, ?_⟩
  rw [hevents, recvEvents_append, recvEvents, recvEvents_disableTail p _ _ hcs hcd]
  exact if_pos ⟨hrst, rfl⟩

/-- Settles O42: the last events of a disable drive each line LOW, and the fall of the reset line draws the receiver. -/
theorem linesAfterDisable : Obligations.LinesAfterDisable := by
  intro s t c hfault hcfg hpins h
  obtain ⟨hcscd, hrstcs, hrstcd⟩ := badPins_eq_false hpins
  have hdisable : exec (.setEnabled false) s = .next (s.disable c) := exec_setEnabled_some hfault hcfg
  obtain rfl : s.disable c = t := Host.Outcome.next.inj (hdisable.symm.trans h)
  obtain ⟨hcs, hcd⟩ := lastLevel_disableEvents s.par hcscd
  rw [State.disable_eq hcfg]
  refine ⟨lineLevel_append_of_lastLevel hcs _, lineLevel_append_of_lastLevel hcd _, fun pin hpin => ⟨?_, ?_⟩⟩
  · exact lineLevel_append_of_lastLevel
      (lastLevel_disableEvents_rst s.par hpin (by rintro rfl; exact hrstcs hpin) (by rintro rfl; exact hrstcd hpin)) _
  · obtain ⟨r, hdraw⟩ := recvEvents_disableEvents_rst s.par (Lines.of c s.trace) s.rx hpin hrstcs hrstcd
    simp only [State.withEvents, hdraw]
    exact ⟨r.draws, r.drawAll_col, r.drawAll_page, fun a => by rw [r.drawAll_pram, Memory.drawn_read]⟩

end Sys2Proof.Machine
end
